-- ==== Sys2Proof/Word.lean ====
section
/-! DEFINITION. The word types of PCV (R17: "the only arithmetic is on 8-bit, 16-bit and 24-bit unsigned integers"). -/

namespace Sys2Proof

/-- A byte, `u8` (00_scope.md 5.1): bit 7 is the most significant bit. -/
abbrev Byte := BitVec 8

/-- `u16`: a checksum. -/
abbrev Half := BitVec 16

/-- `u24`: a device serial (R6, `SERIAL_BITS`). A wider serial cannot be expressed (R63, decision D10). -/
abbrev Serial := BitVec 24

/-- A byte string, first byte first (00_scope.md 5.1). -/
abbrev ByteString := List Byte

end Sys2Proof
end

