-- ==== Sys2Proof/Machine/Names.lean ====
section
/-! DEFINITION. The closed sets of names of the spec (directions, commands, statuses) and the logical packet. -/

namespace Sys2Proof

/-- The use of a tracker entry (R13): `outgoing` is the spec's `OUT` (coded 0, the source's `sent`), `incoming` its
`IN` (coded 1, the source's `received`). -/
inductive Dir where
  | outgoing
  | incoming
deriving DecidableEq, Repr

/-- The six commands of the protocol (R20). The block tests only that a code is one of the six (R62). -/
inductive Command where
  | onOff
  | cooler
  | warmer
  | brighter
  | dimmer
  | reset
deriving DecidableEq, Repr

/-- The status of a response (R140). -/
inductive Status where
  | ok
  | badPreamble
  | badChecksum
  | badCommand
  | unknownSerial
  | staleSequence
  | registryFull
  | badOp
deriving DecidableEq, Repr

/-- Why a byte string is no operation (R60). -/
inductive DecodeError where
  /-- The string is not 19 bytes long: not a request at all, and the block gives it no meaning. -/
  | notARequest
  /-- A request whose opcode byte selects no row of R59: the block answers the status `BadOp`. -/
  | badOp
deriving DecidableEq, Repr

/-- A LogicalPacket (R19). `command` is the byte on the wire; R20 makes 1 to 6 its only legal values. -/
structure Packet where
  serial : Serial
  sequence : Byte
  command : Byte
  options : Byte
deriving DecidableEq, Repr

end Sys2Proof
end

