-- ==== Sys2Proof/Machine/Params.lean ====
section
/-! DEFINITION. The fixed parameters of the block (R6), and the code numbers of directions, commands and statuses. -/

namespace Sys2Proof

/-- `FRAME_LEN` (R6, R30). -/
def frameLen : Nat := 17

/-- `RAW_LEN` (R6, R33). -/
def rawLen : Nat := 18

/-- `CRC_SPAN` (R6): the leading frame bytes the checksum covers. -/
def crcSpan : Nat := 15

/-- The length of a request (R55). -/
def requestLen : Nat := 19

/-- The result bytes of a response, `RSP[1]` to `RSP[17]` (R57). -/
def resultLen : Nat := 17

/-- `PREAMBLE` (R6, R31). -/
def preamble : ByteString := [0x53, 0x39, 0x14, 0xDD, 0x1C, 0x49, 0x34, 0x12]

/-- `SEPARATOR`, frame byte 11 (R6, R31). -/
def separator : Byte := 0xFF

/-- `CRC_POLY` (R6). -/
def crcPoly : BitVec 16 := 0x1021

/-- `CRC_INIT` (R6). -/
def crcInit : Half := 0xFFFE

/-- `CRC_XOROUT` (R6). -/
def crcXorOut : Half := 0x0000

/-- `WINDOW`, the size of the replay window (R6, R105). -/
def window : Nat := 64

/-- `SEQ_INIT`, the initial value of every tracker entry (R6, R23). -/
def seqInit : Byte := 0

/-- `N_CMD`: the command codes are 1 to 6 (R6, R62). -/
def nCmd : Nat := 6

/-- The bit that codes a direction: 0 = `OUT`, 1 = `IN` (R13, R59). -/
def Dir.code : Dir → Byte
  | .outgoing => 0
  | .incoming => 1

/-- The wire code of a command (R20; the codes 2 to 6 are the spec's decision D15). -/
def Command.code : Command → Byte
  | .onOff => 0x01
  | .cooler => 0x02
  | .warmer => 0x03
  | .brighter => 0x04
  | .dimmer => 0x05
  | .reset => 0x06

/-- The status code carried in `RSP[0]` (R140). -/
def Status.code : Status → Byte
  | .ok => 0x00
  | .badPreamble => 0x01
  | .badChecksum => 0x02
  | .badCommand => 0x03
  | .unknownSerial => 0x04
  | .staleSequence => 0x05
  | .registryFull => 0x06
  | .badOp => 0x07

end Sys2Proof
end

