-- ==== Sys2Proof/Machine/Flags.lean ====
section
/-! DEFINITION. The block has no flags or condition codes (R12). What stands in their place are the two conditions
that operations test on bytes. -/

namespace Sys2Proof

/-- The command test (R62): `1 <= c <= 6` as an unsigned number. -/
def recognised (c : Byte) : Bool := decide (1 ≤ c.toNat) && decide (c.toNat ≤ nCmd)

/-- The replay test (R105): `((L - s) mod 256) < 64`. The subtraction wraps at 8 bits; the comparison is unsigned
(R103). -/
def stale (last s : Byte) : Bool := decide ((last - s).toNat < window)

end Sys2Proof
end

