-- ==== Sys2Proof/Machine/Operands.lean ====
section
/-! DEFINITION. Operand assembly and layout: byte order (R32, R61), the operand formats P, W, D of a request (R56)
and the result formats F, P, Q, K, N of a response (R57, R58). -/

namespace Sys2Proof

/-- `B[i]`, byte `i` of a byte string (00_scope.md 5.1); the result type is spelt out so that shifts of it stay in
`BitVec 8`. No rule reads past the end of a string; there this total function answers 0 (log entry 8). -/
def byteAt (b : ByteString) (i : Nat) : BitVec 8 := b.getD i 0

/-- `n` bytes of a byte string from byte `start` on: the half-open range `B[start..start+n)`. -/
def slice (b : ByteString) (start n : Nat) : ByteString := (b.drop start).take n

/-- `be16(h, l)`, most significant byte first (R32, R61). -/
def be16 (h l : Byte) : Half := h ++ l

/-- `be24(a, b, c)`, most significant byte first (R32, R61). -/
def be24 (a b c : Byte) : Serial := a ++ b ++ c

/-- The two bytes of a checksum, big-endian: bits 15 to 8, then bits 7 to 0 (R31). -/
def halfBytes (c : Half) : ByteString := [c.extractLsb' 8 8, c.extractLsb' 0 8]

/-- The three bytes of a serial, big-endian (R31). -/
def serialBytes (serial : Serial) : ByteString :=
  [serial.extractLsb' 16 8, serial.extractLsb' 8 8, serial.extractLsb' 0 8]

/-! ### Operand formats (R56) -/

/-- Format P: `REQ[1..4)`, the serial. -/
def reqSerial (r : ByteString) : Serial := be24 (byteAt r 1) (byteAt r 2) (byteAt r 3)

/-- Format P: `REQ[4]`, a sequence number. -/
def reqSeq (r : ByteString) : Byte := byteAt r 4

/-- Format P: `REQ[5]`, a command code. -/
def reqCmd (r : ByteString) : Byte := byteAt r 5

/-- Format P: `REQ[6]`, an options byte. -/
def reqOpt (r : ByteString) : Byte := byteAt r 6

/-- Format W: `raw[i] = REQ[i+1]`, 18 bytes. -/
def reqRaw (r : ByteString) : ByteString := slice r 1 rawLen

/-- Format D: `data[i] = REQ[i+1]`, 15 bytes. -/
def reqData (r : ByteString) : ByteString := slice r 1 crcSpan

/-- `dir = REQ[0][0]`: 0 = `OUT`, 1 = `IN` (R59). -/
def reqDir (r : ByteString) : Dir := if (byteAt r 0).getLsbD 0 then .incoming else .outgoing

/-! ### Result formats (R58) and the response (R57) -/

/-- A byte string continued with `0x00` up to length `n`. -/
def zeroFill (n : Nat) (b : ByteString) : ByteString := b ++ List.replicate (n - b.length) 0

/-- Format F: the 17-byte frame. -/
def resultF (frame : ByteString) : ByteString := zeroFill resultLen frame

/-- Format P: serial, sequence, command, options. -/
def resultP (p : Packet) : ByteString :=
  zeroFill resultLen (serialBytes p.serial ++ [p.sequence, p.command, p.options])

/-- Format Q: the request's serial and the entry's `last` after the operation. -/
def resultQ (serial : Serial) (last : Byte) : ByteString :=
  zeroFill resultLen (serialBytes serial ++ [last])

/-- Format K: the checksum. -/
def resultK (c : Half) : ByteString := zeroFill resultLen (halfBytes c)

/-- Format N: nothing. -/
def resultN : ByteString := zeroFill resultLen []

/-- The 18-byte response that carries a status and a result (R57). -/
def response (st : Status) (result : ByteString) : ByteString := st.code :: result

/-- The response of an operation that raises `st`: the code and 17 zero bytes (R57, R143). -/
def errorResponse (st : Status) : ByteString := response st resultN

end Sys2Proof
end

