-- ==== Sys2Proof/Config.lean ====
section
/-! DEFINITION. What an implementation of PCV fixes and the spec leaves open: the capacity of the tracker table. -/

namespace Sys2Proof.Config

/-- How many entries the tracker table has beyond the first. The spec leaves `N_TRACK` open (R6, R7, decision D7:
"OPEN: parameter `N_TRACK >= 1`"), so this constant has no body: nothing can be proved about its value. -/
opaque extraTracks : Nat

/-- `N_TRACK`, the capacity of the tracker table of a machine that comes out of `State.reset`; at least 1 (R6). -/
def nTrack : Nat := extraTracks + 1

end Sys2Proof.Config
end

