-- ==== Sys2Proof/Machine/State.lean ====
section
/-! DEFINITION. The state of the machine: the tracker table (R13), and the two ends of the host interface. -/

namespace Sys2Proof.Machine

/-- One entry of the tracker table (R13). -/
structure Entry where
  /-- 1 when the entry holds a registered device, 0 when it is free. -/
  valid : Bool
  /-- Which of the two uses the entry has. -/
  dir : Dir
  /-- The device serial the entry tracks. -/
  serial : Serial
  /-- `OUT`: the sequence number of the last frame built. `IN`: the last sequence number accepted. -/
  last : Byte
deriving DecidableEq, Repr

/-- A free entry. Its `valid` is 0 (R23); the spec calls its other three fields "unspecified, and unobservable"
(R13, R23), and their value here is a DESIGN CHOICE (log entry 2). -/
def Entry.free : Entry := { valid := false, dir := .outgoing, serial := 0, last := 0 }

/-- Faults. PCV has none: "the block has no faults and no stuck states" (93_implementation_defined.md Part 1, R185).
The type is empty, so no operation and no step can answer a fault. Safe. -/
inductive Fault
deriving DecidableEq, Repr

/-- Refusals: where the model gives no next state. -/
inductive Refusal where
  /-- An operation without a meaning yet. No arm of `exec` raises it. Safe: the run stops. -/
  | notModelled (mnemonic : String)
  /-- The host offered a byte string that is not 19 bytes long. Raised by `step` only (R60: "is not a request and the
  block gives it no meaning; a model refuses it at its boundary"). Safe: the run stops. -/
  | notARequest
deriving DecidableEq, Repr

/-- The state of the machine. The block itself keeps one thing between operations, the tracker table (10_state.md,
R18); `requests` and `responses` are the two ends of the host interface (log entry 3). -/
structure State where
  /-- `N_TRACK`, the capacity of the table: a parameter of the machine that no step writes (R6, decision D7). -/
  nTrack : Nat
  /-- The tracker table: element `k` is `TT[k]`. The entries from `tt.length` to `nTrack - 1`, which nothing has
  written yet, are not listed and are free (R13, R23; log entry 1). -/
  tt : List Entry
  /-- The requests the host has issued and the block has not taken, oldest first (R40, R186). -/
  requests : List ByteString
  /-- The responses the block has given, oldest first (R186). -/
  responses : List ByteString
deriving DecidableEq, Repr

/-- The machine right after reset, for a table of `n` entries (R23, R170): every entry free, no request pending. -/
def State.resetWith (n : Nat) : State := { nTrack := n, tt := [], requests := [], responses := [] }

/-- The machine right after reset, with the capacity the implementation has. -/
def State.reset : State := State.resetWith Config.nTrack

end Sys2Proof.Machine
end

