-- ==== Sys2Proof/Machine/Ops.lean ====
section
/-! DEFINITION. The named operations over the tracker table and the host interface that the meanings share: the
access through `find` (R107), the free entry TRACK takes (R100), reading and writing `last`, giving a response (R57),
and raising a status (R143), which is what this block has in the place of taking an exception. There is no return
from an error and nothing to restore (R147). -/

namespace Sys2Proof.Machine

/-- What `exec` and `step` answer. -/
abbrev Result := Host.Outcome State Fault Refusal

/-! ### The tracker table -/

/-- `TT[k]`; an entry that is not listed is free. -/
def State.entry (s : State) (k : Nat) : Entry := s.tt.getD k Entry.free

/-- The comparison of `find` (R107): a valid entry with this direction and this serial. -/
def Entry.isKey (dir : Dir) (serial : Serial) (e : Entry) : Bool :=
  e.valid && e.dir == dir && e.serial == serial

/-- `find(dir, serial)` (00_scope.md 5.2, R107). -/
def State.find (s : State) (dir : Dir) (serial : Serial) : Option Nat :=
  s.tt.findIdx? (Entry.isKey dir serial)

/-- "The lowest index with `TT[k].valid = 0`", or `none` when every entry is valid (R100). -/
def State.freeIndex (s : State) : Option Nat :=
  match s.tt.findIdx? (fun e => !e.valid) with
  | some k => some k
  | none => if s.tt.length < s.nTrack then some s.tt.length else none

/-- A table with entry `k` replaced; where `k` is not listed yet, the entries up to it are listed as free ones. -/
def setEntry (tt : List Entry) (k : Nat) (e : Entry) : List Entry :=
  if k < tt.length then tt.set k e else tt ++ List.replicate (k - tt.length) Entry.free ++ [e]

/-- `TT[k] <- e`, all four fields. -/
def State.writeEntry (s : State) (k : Nat) (e : Entry) : State := { s with tt := setEntry s.tt k e }

/-- The "load" of R107: `TT[k].last`. -/
def State.readLast (s : State) (k : Nat) : Byte := (s.entry k).last

/-- The "store" of R107: `TT[k].last <- v`. -/
def State.writeLast (s : State) (k : Nat) (v : Byte) : State :=
  s.writeEntry k { s.entry k with last := v }

/-- The entry TRACK creates (R100). -/
def newEntry (dir : Dir) (serial : Serial) : Entry :=
  { valid := true, dir := dir, serial := serial, last := seqInit }

/-- Register a device (R100, R101): nothing to do for a key that is present, otherwise the lowest free entry is
written, and `RegistryFull` when there is none. -/
def State.register (s : State) (dir : Dir) (serial : Serial) : Except Status State :=
  match s.find dir serial with
  | some _ => .ok s
  | none =>
    match s.freeIndex with
    | none => .error .registryFull
    | some k => .ok (s.writeEntry k (newEntry dir serial))

/-- Allocate the next outgoing sequence number (R102, and within R120): `(last + 1) mod 256`, stored back. -/
def State.allocate (s : State) (serial : Serial) : Except Status (Byte × State) :=
  match s.find .outgoing serial with
  | none => .error .unknownSerial
  | some k => .ok (s.readLast k + 1, s.writeLast k (s.readLast k + 1))

/-- Test a received sequence number against the window and record it if fresh (R104, and within R122). -/
def State.accept (s : State) (serial : Serial) (seq : Byte) : Except Status State :=
  match s.find .incoming serial with
  | none => .error .unknownSerial
  | some k =>
    if stale (s.readLast k) seq then .error .staleSequence
    else .ok (s.writeLast k seq)

/-! ### The host interface -/

/-- One request is taken and its response given, as one step (R40). -/
def State.answer (s : State) (rsp : ByteString) : State :=
  { s with requests := s.requests.tail, responses := s.responses ++ [rsp] }

/-- The end of an operation that completes: status `OK` and a result (R57). -/
def finish (result : ByteString) (s : State) : Result := .next (s.answer (response .ok result))

/-- `raise <Status>` (00_scope.md 5.2, R143): the response is the code and zeros, no state of the block is written,
and the block is ready for the next request. -/
def raise (st : Status) (s : State) : Result := .next (s.answer (errorResponse st))

/-- What becomes of a byte string that is no operation (R60): an unassigned opcode raises `BadOp`; a string that is
not a request is refused at the boundary. -/
def rejectRequest (e : DecodeError) (s : State) : Result :=
  match e with
  | .badOp => raise .badOp s
  | .notARequest => .refused .notARequest

/-- Reset as an event from outside (R170): the capacity is the machine's own, nothing else survives. No operation
and no step does this. -/
def State.resetEvent (s : State) : State := State.resetWith s.nTrack

end Sys2Proof.Machine
end

