-- ==== Sys2Proof/Machine/Codec.lean ====
section
/-! DEFINITION. The PacketCodec: checksum (R80), realignment (R82), frame building (R85) and the receive checks
(R86), and the meanings of CRC16, REALIGN, ENCODE, DECODE. None of the four reads or writes the tracker table. -/

namespace Sys2Proof

/-- One shift of the checksum register (R80). -/
def crcShift (c : BitVec 16) : BitVec 16 := if c.getLsbD 15 then (c <<< 1) ^^^ crcPoly else c <<< 1

/-- One byte enters at the top of the register and is shifted through (R80). -/
def crcByte (c : BitVec 16) (b : BitVec 8) : BitVec 16 := Nat.repeat crcShift 8 (c ^^^ (b.setWidth 16 <<< 8))

/-- `crc16(B)` (R80; the procedure is the spec's from general knowledge, decision D20). -/
def crc16 (b : ByteString) : Half := b.foldl crcByte crcInit ^^^ crcXorOut

/-- Byte `i` of `realign(raw)`, as R82 writes it. -/
def realignByte (raw : ByteString) : Nat → BitVec 8
  | 0 => 0x50#8 ||| (byteAt raw 0 >>> 5)
  | i + 1 =>
    (((byteAt raw i >>> 1) &&& 0x0F#8) <<< 4) ||| ((byteAt raw i &&& 0x01#8) <<< 3) ||| (byteAt raw (i + 1) >>> 5)

/-- `realign(raw)` (R82): 17 bytes. -/
def realign (raw : ByteString) : ByteString := (List.range frameLen).map (realignByte raw)

/-- The first 15 bytes of a frame (R31, R85). -/
def frameHead (serial : Serial) (seq cmd opt : Byte) : ByteString :=
  preamble ++ serialBytes serial ++ [separator, seq, cmd, opt]

/-- The 17-byte frame ENCODE and SEND build (R31, R85). -/
def buildFrame (serial : Serial) (seq cmd opt : Byte) : ByteString :=
  frameHead serial seq cmd opt ++ halfBytes (crc16 (frameHead serial seq cmd opt))

/-- The packet the bytes of a frame carry (R31, R86). -/
def framePacket (f : ByteString) : Packet :=
  { serial := be24 (byteAt f 8) (byteAt f 9) (byteAt f 10)
    sequence := byteAt f 12
    command := byteAt f 13
    options := byteAt f 14 }

/-- The checks of DECODE, which are also the first checks of RECV, in the order of R86 and R122. The separator
`F[11]` is not checked (R63). -/
def readFrame (f : ByteString) : Except Status Packet :=
  if slice f 0 8 ≠ preamble then .error .badPreamble
  else if crc16 (slice f 0 crcSpan) ≠ be16 (byteAt f 15) (byteAt f 16) then .error .badChecksum
  else if recognised (byteAt f 13) then .ok (framePacket f)
  else .error .badCommand

namespace Machine

/-- CRC16 (R81). -/
def execCrc16 (data : ByteString) (s : State) : Result := finish (resultK (crc16 data)) s

/-- REALIGN (R84). -/
def execRealign (raw : ByteString) (s : State) : Result := finish (resultF (realign raw)) s

/-- ENCODE (R85). -/
def execEncode (serial : Serial) (seq cmd opt : Byte) (s : State) : Result :=
  if recognised cmd then finish (resultF (buildFrame serial seq cmd opt)) s
  else raise .badCommand s

/-- DECODE (R86). -/
def execDecode (raw : ByteString) (s : State) : Result :=
  match readFrame (realign raw) with
  | .error st => raise st s
  | .ok p => finish (resultP p) s

end Machine

end Sys2Proof
end

