-- ==== Sys2Proof/Machine/Composite.lean ====
section
/-! DEFINITION. The meanings of the pipeline operations SEND and RECV (42_composite_ops.md). -/

namespace Sys2Proof.Machine

/-- SEND (R120): the command test comes first, then the look-up and the allocation, then the frame. -/
def execSend (serial : Serial) (cmd opt : Byte) (s : State) : Result :=
  if recognised cmd then
    match s.allocate serial with
    | .error st => raise st s
    | .ok (v, s') => finish (resultF (buildFrame serial v cmd opt)) s'
  else raise .badCommand s

/-- RECV (R122): the checks of DECODE, then the look-up and the freshness test. -/
def execRecv (raw : ByteString) (s : State) : Result :=
  match readFrame (realign raw) with
  | .error st => raise st s
  | .ok p =>
    match s.accept p.serial p.sequence with
    | .error st => raise st s
    | .ok s' => finish (resultP p) s'

end Sys2Proof.Machine
end

