-- ==== Sys2Proof/Machine/Tracker.lean ====
section
/-! DEFINITION. The meanings of TRACK, SEQ_NEXT, SEQ_CHECK (41_tracker_ops.md). -/

namespace Sys2Proof.Machine

/-- TRACK (R100, R101). -/
def execTrack (dir : Dir) (serial : Serial) (s : State) : Result :=
  match s.register dir serial with
  | .error st => raise st s
  | .ok s' => finish resultN s'

/-- SEQ_NEXT (R102). -/
def execSeqNext (serial : Serial) (s : State) : Result :=
  match s.allocate serial with
  | .error st => raise st s
  | .ok (v, s') => finish (resultQ serial v) s'

/-- SEQ_CHECK (R104). -/
def execSeqCheck (serial : Serial) (seq : Byte) (s : State) : Result :=
  match s.accept serial seq with
  | .error st => raise st s
  | .ok s' => finish (resultQ serial seq) s'

end Sys2Proof.Machine
end

