-- ==== Sys2Proof/Syntax.lean ====
section
/-! DEFINITION. The nine operations of PCV with their operands (R59): one constructor per row of
spec/opcode_table.json. -/

namespace Sys2Proof

/-- An operation of the block. The operands are the fields the operation uses (R59); the bytes of a request it does
not use are no part of it (R55). -/
inductive Instr where
  /-- `CRC16 d0 … d14` (R81). -/
  | crc16 (data : ByteString)
  /-- `REALIGN r0 … r17` (R84). -/
  | realign (raw : ByteString)
  /-- `ENCODE serial, seq, cmd, opt` (R85). -/
  | encode (serial : Serial) (seq cmd opt : Byte)
  /-- `DECODE r0 … r17` (R86). -/
  | decode (raw : ByteString)
  /-- `TRACK OUT, serial` and `TRACK IN, serial` (R100). -/
  | track (dir : Dir) (serial : Serial)
  /-- `SEQ_NEXT serial` (R102). -/
  | seqNext (serial : Serial)
  /-- `SEQ_CHECK serial, seq` (R104). -/
  | seqCheck (serial : Serial) (seq : Byte)
  /-- `SEND serial, cmd, opt` (R120). -/
  | send (serial : Serial) (cmd opt : Byte)
  /-- `RECV r0 … r17` (R122). -/
  | recv (raw : ByteString)
deriving DecidableEq, Repr

end Sys2Proof
end

