-- ==== Sys2Proof/Machine/Dispatch.lean ====
section
/-! DEFINITION. One arm per operation, each a call of its meaning. -/

namespace Sys2Proof.Machine

/-- The effect of one operation (R59 names the rule of each). -/
def exec (i : Instr) (s : State) : Host.Outcome State Fault Refusal :=
  match i with
  | .crc16 data => Sys2Proof.Machine.execCrc16 data s
  | .realign raw => Sys2Proof.Machine.execRealign raw s
  | .encode serial seq cmd opt => Sys2Proof.Machine.execEncode serial seq cmd opt s
  | .decode raw => Sys2Proof.Machine.execDecode raw s
  | .track dir serial => Sys2Proof.Machine.execTrack dir serial s
  | .seqNext serial => Sys2Proof.Machine.execSeqNext serial s
  | .seqCheck serial seq => Sys2Proof.Machine.execSeqCheck serial seq s
  | .send serial cmd opt => Sys2Proof.Machine.execSend serial cmd opt s
  | .recv raw => Sys2Proof.Machine.execRecv raw s

end Sys2Proof.Machine
end

