-- ==== Sys2Proof/WellFormed.lean ====
section
/-! DEFINITION. Which terms of `Instr` are operations a request can carry: the byte-string operands have the fixed
lengths of formats W and D (R35, R56). Every value of every other operand is expressible, an unrecognised command
byte among them (the operation then raises `BadCommand`). -/

namespace Sys2Proof

/-- The operand lengths of R56: 15 data bytes for format D, 18 raw bytes for format W. -/
def Instr.wellFormed : Instr → Bool
  | .crc16 data => data.length == crcSpan
  | .realign raw => raw.length == rawLen
  | .encode _ _ _ _ => true
  | .decode raw => raw.length == rawLen
  | .track _ _ => true
  | .seqNext _ => true
  | .seqCheck _ _ => true
  | .send _ _ _ => true
  | .recv raw => raw.length == rawLen

end Sys2Proof
end

