-- ==== Sys2Proof/Decode.lean ====
section
/-! DEFINITION. Decoding a request (R55, R56, R59, R60), and after it the encoder: the request of a well-formed
operation. -/

namespace Sys2Proof

/-- One row of the opcode map: a request selects it iff `REQ[0] & mask = pattern`; `build` assembles the operands. -/
structure OpcodeRow where
  pattern : Byte
  mask : Byte
  build : ByteString → Instr

/-- The opcode map (R59). -/
def opcodeMap : List OpcodeRow :=
  [⟨0x01, 0xFF, fun r => .crc16 (reqData r)⟩,
   ⟨0x02, 0xFF, fun r => .realign (reqRaw r)⟩,
   ⟨0x03, 0xFF, fun r => .encode (reqSerial r) (reqSeq r) (reqCmd r) (reqOpt r)⟩,
   ⟨0x04, 0xFF, fun r => .decode (reqRaw r)⟩,
   ⟨0x10, 0xFE, fun r => .track (reqDir r) (reqSerial r)⟩,
   ⟨0x12, 0xFF, fun r => .seqNext (reqSerial r)⟩,
   ⟨0x13, 0xFF, fun r => .seqCheck (reqSerial r) (reqSeq r)⟩,
   ⟨0x20, 0xFF, fun r => .send (reqSerial r) (reqCmd r) (reqOpt r)⟩,
   ⟨0x21, 0xFF, fun r => .recv (reqRaw r)⟩]

/-- Whether a request selects a row (R59). -/
def OpcodeRow.selects (row : OpcodeRow) (opcode : Byte) : Bool := opcode &&& row.mask == row.pattern

/-- Decode a byte string (R60): total, and naming why a string is no operation. -/
def decode (r : ByteString) : Except DecodeError Instr :=
  if r.length = requestLen then
    match opcodeMap.find? (fun row => row.selects (byteAt r 0)) with
    | some row => .ok (row.build r)
    | none => .error .badOp
  else .error .notARequest

/-! ### The encoder -/

/-- The opcode byte of an operation (R59); TRACK's direction is bit 0. -/
def Instr.opcode : Instr → Byte
  | .crc16 _ => 0x01
  | .realign _ => 0x02
  | .encode _ _ _ _ => 0x03
  | .decode _ => 0x04
  | .track dir _ => 0x10 ||| dir.code
  | .seqNext _ => 0x12
  | .seqCheck _ _ => 0x13
  | .send _ _ _ => 0x20
  | .recv _ => 0x21

/-- The operand bytes of an operation, `REQ[1]` on (R56); a field the operation does not use is `0x00` between the
fields it uses and left off at the end. -/
def Instr.operandBytes : Instr → ByteString
  | .crc16 data => data
  | .realign raw => raw
  | .encode serial seq cmd opt => serialBytes serial ++ [seq, cmd, opt]
  | .decode raw => raw
  | .track _ serial => serialBytes serial
  | .seqNext serial => serialBytes serial
  | .seqCheck serial seq => serialBytes serial ++ [seq]
  | .send serial cmd opt => serialBytes serial ++ [0, cmd, opt]
  | .recv raw => raw

/-- The request of a well-formed operation: 19 bytes, the unused ones `0x00` (R55 lets them be anything). -/
def encode (i : Instr) : ByteString := zeroFill requestLen (i.opcode :: i.operandBytes)

/-! ### Words numbered as the opcode table numbers them -/

/-- The request whose bits are `w`, bit 0 the least significant bit of `REQ[0]` and the bits from `nbits` on all 0. -/
def requestOfWord (nbits w : Nat) : ByteString :=
  (List.range requestLen).map fun k => BitVec.ofNat 8 ((w % 2 ^ nbits) / 256 ^ k)

/-- The operation the decoder reads from the request whose bits are `w`. -/
def decodeTableWord (nbits w : Nat) : Option Instr := (decode (requestOfWord nbits w)).toOption

end Sys2Proof
end

