-- ==== Sys2Proof/Machine/Fetch.lean ====
section
/-! DEFINITION. Taking the next request from the host, and putting one there. -/

namespace Sys2Proof.Machine

/-- The next request, in the order the host issued them (R11, R40); `none` when none is pending. -/
def State.fetch (s : State) : Option ByteString := s.requests.head?

/-- The host issues a request that is taken before those already pending. -/
def State.issueFirst (s : State) (r : ByteString) : State := { s with requests := r :: s.requests }

/-- The host issues requests, to be taken in order after those already pending (R40). -/
def State.issue (s : State) (rs : List ByteString) : State := { s with requests := s.requests ++ rs }

end Sys2Proof.Machine
end

