-- ==== Sys2Proof/Machine/Step.lean ====
section
/-! DEFINITION. One step: one whole operation (R40). -/

namespace Sys2Proof.Machine

/-- One step. With no request pending the block "holds the tracker table and does nothing" (R159). Otherwise the
oldest pending request is decoded (R60) and its operation performed to the end; the meaning itself takes the request
off the queue and gives the response. -/
def step (s : State) : Host.Outcome State Fault Refusal :=
  match s.fetch with
  | none => .next s
  | some r =>
    match decode r with
    | .ok i => exec i s
    | .error e => rejectRequest e s

/-- `s` with the request whose bits are `w` issued as the one the very next step takes (log entry 4). -/
def State.withFetchWord (s : State) (nbits w : Nat) : State := s.issueFirst (requestOfWord nbits w)

end Sys2Proof.Machine
end

