-- ==== Sys2Proof/Machine/HostSide.lean ====
section
/-! DEFINITION. The host's side of the block as far as the spec writes it down: the pseudo-operations of
43_host_sequences.md as lists of requests, and the action, transmission, dispatch and log policy of R144 and R156.
The driving loop that uses them is Machine/HostLoop.lean. Nothing here is an operation of the block and `step` uses
none of it; R5 puts the rest of the host outside the spec. -/

namespace Sys2Proof.HostSide

/-- `BURST` (R6): repetitions of one transmitted frame. -/
def burstCount : Nat := 20

/-- `BURST frame` (R130): the frames the host hands to the radio, all the same 17 bytes. -/
def burst (frame : ByteString) : List ByteString := List.replicate burstCount frame

/-- The overflow options byte (R134): `(0 - 16) mod 256`. -/
def overflowOptions : Byte := 0 - 16

/-- The SENDs of `SET_BRIGHTNESS serial, v` (R132). The spec does not state the legal range of `v` (R132, N16); that
every byte 0 to 255 is expanded, with no range check, is a DESIGN CHOICE (log entry 16). -/
def setBrightness (serial : Serial) (v : Byte) : List Instr :=
  [.send serial Command.dimmer.code overflowOptions, .send serial Command.brighter.code v]

/-- `round((1 - (mireds - 153) / (370 - 153)) * 15)` (R133): the integer nearest to `15 * (370 - mireds) / 217`. What
the host does outside 153 to 370 is not in the source (N16); there this answers `none` (log entry 12). -/
def colorTempAmount (mireds : Nat) : Option Nat :=
  if 153 ≤ mireds ∧ mireds ≤ 370 then some ((2 * (15 * (370 - mireds)) + 217) / (2 * 217)) else none

/-- The SENDs of `SET_COLOR_TEMP serial, mireds` (R133, decision D21). -/
def setColorTemp (serial : Serial) (mireds : Nat) : Option (List Instr) :=
  (colorTempAmount mireds).map fun amount =>
    [.send serial Command.warmer.code overflowOptions, .send serial Command.cooler.code (BitVec.ofNat 8 amount)]

/-- What the host does with a response (R144). -/
inductive Action where
  /-- Dispatch (`command`, `options`) to the listeners of the serial (R156). -/
  | dispatch
  /-- Transmit the frame as a burst (R130). -/
  | transmit
  /-- Drop the received buffer. -/
  | drop
  /-- Refuse the call that asked for the operation. -/
  | refuseCall
  /-- Report the rejected registration to the caller. -/
  | reportRejected
deriving DecidableEq, Repr

/-- The host action column of R144, by the operation and the status; `none` where the table names none. `BadCommand`
is "drop (receive) or refuse the call (send)"; DEDUCED: an ENCODE belongs to the send side (log entry 12). -/
def action (i : Instr) (st : Status) : Option Action :=
  match i, st with
  | .recv _, .ok => some .dispatch
  | .send _ _ _, .ok => some .transmit
  | _, .ok => none
  | _, .badPreamble => some .drop
  | _, .badChecksum => some .drop
  | .encode _ _ _ _, .badCommand => some .refuseCall
  | .send _ _ _, .badCommand => some .refuseCall
  | _, .badCommand => some .drop
  | _, .unknownSerial => some .drop
  | _, .staleSequence => some .drop
  | _, .registryFull => some .reportRejected
  | _, .badOp => none

/-- The frames the host hands to the radio after an operation (R130, R144): one burst of the frame a SEND answers with
status `OK`, nothing otherwise. -/
def transmitted (i : Instr) (rsp : ByteString) : List ByteString :=
  match i with
  | .send _ _ _ => if byteAt rsp 0 = Status.ok.code then burst (slice rsp 1 frameLen) else []
  | _ => []

/-- The dispatch the host owes after an operation (R156, R157): the serial whose listeners it invokes, and the command
and the options it passes them. The sequence number is not passed. Only an accepted RECV owes one. -/
def dispatched (i : Instr) (rsp : ByteString) : Option (Serial × Byte × Byte) :=
  match i with
  | .recv _ =>
    if byteAt rsp 0 = Status.ok.code then
      some (be24 (byteAt rsp 1) (byteAt rsp 2) (byteAt rsp 3), byteAt rsp 5, byteAt rsp 6)
    else none
  | _ => none

/-- The log column of R144; `none` where it says "not stated" or "not in source". -/
def logs : Status → Option Bool
  | .ok => none
  | .badPreamble => some false
  | .badChecksum => some true
  | .badCommand => some true
  | .unknownSerial => some true
  | .staleSequence => some true
  | .registryFull => some true
  | .badOp => none

end Sys2Proof.HostSide
end

