-- ==== Sys2Proof/Machine/HostLoop.lean ====
section
/-! DEFINITION. The host's driving loop around the block: the receive poll (R131), the calls that issue operations
(R157), and the burst that keeps both waiting (R130, R176). The loop is the host's: nothing here is state or an
operation of the block, and `step` uses none of it. What the spec leaves open about it is log entry 17. -/

namespace Sys2Proof.HostSide

open Sys2Proof.Machine

/-- The host at work: the block it drives, and what R130, R131 and R144 have it do. -/
structure Loop where
  /-- The block. -/
  block : State
  /-- The frames of the burst in progress that are still to be transmitted; empty while the radio listens (R130). -/
  burstLeft : List ByteString
  /-- The frames transmitted, oldest first. -/
  onAir : List ByteString
  /-- The dispatches made, oldest first: serial, command, options (R156). -/
  dispatches : List (Serial × Byte × Byte)
  /-- The statuses logged, oldest first (R144). -/
  log : List Status
deriving DecidableEq, Repr

/-- The host before anything has happened, around a block in the state `s`. -/
def Loop.start (s : State) : Loop := { block := s, burstLeft := [], onAir := [], dispatches := [], log := [] }

/-- One turn of the loop. -/
inductive Turn where
  /-- The "non-blocking check for data availability" (R131), and the raw buffer it finds, if any. -/
  | poll (available : Option ByteString)
  /-- A call that issues an operation (R157). -/
  | call (i : Instr)
  /-- The radio transmits one frame of the burst in progress (R130). -/
  | transmit
deriving DecidableEq, Repr

/-- Whether a turn is a transmission. -/
def Turn.isTransmit : Turn → Bool
  | .poll _ => false
  | .call _ => false
  | .transmit => true

/-- The eight statuses (R140). -/
def statuses : List Status :=
  [.ok, .badPreamble, .badChecksum, .badCommand, .unknownSerial, .staleSequence, .registryFull, .badOp]

/-- The log line a response makes the host write, if any: of a status that R144 says is logged. -/
def logged (rsp : ByteString) : Option Status :=
  statuses.find? fun st => st.code == byteAt rsp 0 && logs st == some true

/-- What the host has done after a response: dispatched (R156), started a burst (R130), logged (R144); a buffer whose
RECV answers another status than `OK` is dropped, which leaves nothing. -/
def Loop.settle (h : Loop) (i : Instr) (rsp : ByteString) (t : State) : Loop :=
  { h with
    block := t
    burstLeft := transmitted i rsp
    dispatches := h.dispatches ++ (dispatched i rsp).toList
    log := h.log ++ (logged rsp).toList }

/-- The host issues one operation, takes its response, and does what it owes. -/
def Loop.serve (h : Loop) (i : Instr) : Host.Outcome Loop Fault Refusal :=
  match step (h.block.issueFirst (encode i)) with
  | .next t => .next (h.settle i (t.responses.getLastD []) t)
  | .fault r => .fault r
  | .refused r => .refused r

/-- The host issues an operation, unless a burst is in progress (R131, R176) or no request can carry it (R35). -/
def Loop.request (h : Loop) (i : Instr) : Host.Outcome Loop Fault Refusal :=
  if h.burstLeft = [] ∧ i.wellFormed = true then h.serve i else .next h

/-- One turn of the driving loop. A poll that finds a buffer issues one RECV with it (R131). -/
def Loop.turn (h : Loop) : Turn → Host.Outcome Loop Fault Refusal
  | .poll none => .next h
  | .poll (some raw) => h.request (.recv raw)
  | .call i => h.request i
  | .transmit =>
    match h.burstLeft with
    | [] => .next h
    | frame :: rest => .next { h with burstLeft := rest, onAir := h.onAir ++ [frame] }

/-- The turns of a list, one after the other. -/
def Loop.turns (h : Loop) : List Turn → Host.Outcome Loop Fault Refusal
  | [] => .next h
  | u :: us =>
    match h.turn u with
    | .next h' => h'.turns us
    | .fault r => .fault r
    | .refused r => .refused r

end Sys2Proof.HostSide
end

