-- ==== Sys2Proof/Machine/Wire.lean ====
section
/-! DEFINITION. The wire around the block, which no operation computes: byte strings as bit streams (00_scope.md 5.1)
and the misalignment a receive delivers, `oversample`, the test-only inverse of `realign`
(95_test_vectors.md section 2, decision D18). -/

namespace Sys2Proof

/-- Bit `j` of a byte string read as a bit stream: bit 7 of `B[0]` is stream bit 0 (00_scope.md 5.1). -/
def streamBit (b : ByteString) (j : Nat) : Bool := (byteAt b (j / 8)).getMsbD (j % 8)

/-- The whole bit stream of a byte string. -/
def streamBits (b : ByteString) : List Bool := (List.range (8 * b.length)).map (streamBit b)

/-- A byte string with stream bit `j` inverted (R87 item 3). -/
def flipStreamBit (b : ByteString) (j : Nat) : ByteString :=
  b.set (j / 8) (byteAt b (j / 8) ^^^ (0x80#8 >>> (j % 8)))

/-- Byte `i` of `oversample(F, pad)`, as 95_test_vectors.md section 2 writes it. -/
def oversampleByte (f : ByteString) (pad : BitVec 13) (i : Nat) : BitVec 8 :=
  if i < 16 then ((byteAt f i &&& 0x07#8) <<< 5) ||| (byteAt f (i + 1) >>> 3)
  else if i = 16 then ((byteAt f 16 &&& 0x07#8) <<< 5) ||| (pad.extractLsb' 8 5).setWidth 8
  else pad.extractLsb' 0 8

/-- `oversample(F, pad)`: the 18-byte raw buffer in which a radio delivers the frame `F`; the 13 bits after the frame
are `pad`, which the spec leaves free (R45, U4). -/
def oversample (f : ByteString) (pad : BitVec 13) : ByteString := (List.range rawLen).map (oversampleByte f pad)

end Sys2Proof
end

