-- ==== Sys2Proof/Safety.lean ====
section
/-! DEFINITION. What counts as a sound state and a safe run, in the terms the statements use. -/

namespace Sys2Proof.Machine

/-- Entry `k` holds the device (`dir`, `serial`). -/
def State.Holds (s : State) (k : Nat) (dir : Dir) (serial : Serial) : Prop :=
  (s.entry k).valid = true ∧ (s.entry k).dir = dir ∧ (s.entry k).serial = serial

/-- R14: no two valid entries have the same direction and serial. -/
def State.KeysUnique (s : State) : Prop :=
  ∀ j k dir serial, s.Holds j dir serial → s.Holds k dir serial → j = k

/-- The invariant of the tracker table: R14, the capacity of R6 and R13, and, as no operation removes an entry and
TRACK takes the lowest free one (R15, R100), every listed entry is valid (log entry 1). -/
structure State.Inv (s : State) : Prop where
  /-- `N_TRACK >= 1`. -/
  positive : 1 ≤ s.nTrack
  /-- The table has no entry beyond `N_TRACK`. -/
  capacity : s.tt.length ≤ s.nTrack
  /-- R14. -/
  keysUnique : s.KeysUnique
  /-- The free entries are exactly the unlisted ones. -/
  listedValid : ∀ e ∈ s.tt, e.valid = true

/-- The table as the finite map of R14: the `last` of a registered device, `none` for one that is not registered. -/
def State.lastOf (s : State) (dir : Dir) (serial : Serial) : Option Byte :=
  (s.find dir serial).map s.readLast

/-- The number of free entries. -/
def State.freeCount (s : State) : Nat := s.tt.countP (fun e => !e.valid) + (s.nTrack - s.tt.length)

/-- Two states hold the same finite map (R14): the same devices with the same `last`, and as many free places. -/
def State.SameMap (s s' : State) : Prop :=
  (∀ dir serial, s.lastOf dir serial = s'.lastOf dir serial) ∧ s.freeCount = s'.freeCount

/-- Two tables that agree in everything but the fields of free entries (R13, U3). -/
def State.SameUsed (s s' : State) : Prop :=
  s.nTrack = s'.nTrack ∧ s.tt.length ≤ s.nTrack ∧ s'.tt.length ≤ s'.nTrack ∧
  ∀ k, (s.entry k).valid = (s'.entry k).valid ∧ ((s.entry k).valid = true → s.entry k = s'.entry k)

/-- One request was taken and one response given (R40). -/
def State.Answers (s t : State) (rsp : ByteString) : Prop :=
  t.requests = s.requests.tail ∧ t.responses = s.responses ++ [rsp]

/-- No field of the tracker table differs. -/
def State.TableKept (s t : State) : Prop := t.nTrack = s.nTrack ∧ t.tt = s.tt

/-- Entry `k` became `e`, and every other entry reads as before. -/
def State.EntryWritten (s t : State) (k : Nat) (e : Entry) : Prop :=
  t.nTrack = s.nTrack ∧ t.entry k = e ∧ ∀ j, j ≠ k → t.entry j = s.entry j

/-- Every entry reads as before, but that `last` of entry `k` became `v`. -/
def State.LastWritten (s t : State) (k : Nat) (v : Byte) : Prop :=
  s.EntryWritten t k { s.entry k with last := v }

/-- The response of an operation that completes: `0x00`, the result, and zeros up to 18 bytes (R57, R58). -/
def okBytes (result : ByteString) : ByteString := 0x00 :: (result ++ List.replicate (17 - result.length) 0x00)

/-- The response of an operation that raises the status with this code: the code and 17 zeros (R57, R143). -/
def errorBytes (code : Byte) : ByteString := code :: List.replicate 17 0x00

/-- The device whose entry an operation looks up (R107): the direction is the operation's, the serial its operand or,
for RECV, the one in the realigned frame. -/
def lookedUp : Instr → Option (Dir × Serial)
  | .track dir serial => some (dir, serial)
  | .seqNext serial => some (.outgoing, serial)
  | .seqCheck serial _ => some (.incoming, serial)
  | .send serial _ _ => some (.outgoing, serial)
  | .recv raw =>
    some (.incoming, be24 (byteAt (realign raw) 8) (byteAt (realign raw) 9) (byteAt (realign raw) 10))
  | .crc16 _ => none
  | .realign _ => none
  | .encode _ _ _ _ => none
  | .decode _ => none

/-- The ten assigned opcode values (R59). -/
def assignedOpcodes : List Byte := [0x01, 0x02, 0x03, 0x04, 0x10, 0x11, 0x12, 0x13, 0x20, 0x21]

/-- The request bytes that the format of an opcode uses, `REQ[0]` among them (R56, R59). -/
def usedBytes (opcode : Byte) : List Nat :=
  if opcode = 0x01 then List.range 16
  else if opcode = 0x03 then List.range 7
  else if opcode = 0x10 ∨ opcode = 0x11 ∨ opcode = 0x12 then List.range 4
  else if opcode = 0x13 then List.range 5
  else if opcode = 0x20 then [0, 1, 2, 3, 5, 6]
  else if opcode = 0x02 ∨ opcode = 0x04 ∨ opcode = 0x21 then List.range 19
  else [0]

/-- A state whose pending requests are all requests: a run from it is safe, the model refuses nothing (R60). -/
def State.Safe (s : State) : Prop := ∀ r ∈ s.requests, r.length = requestLen

end Sys2Proof.Machine
end

