-- ==== Sys2Proof/Certificates/Slice0/Obligations.lean ====
section
/-! DEFINITION. The statements for the provers. Each docstring names the rules of spec/ it formalises. "Answers",
"TableKept", "EntryWritten" and the other words are defined in Sys2Proof/Safety.lean. -/

open Sys2Proof Sys2Proof.Machine

/-! ### The machine: steps, requests, responses -/

/-- A step takes the oldest pending request and runs the operation it decodes to (R40, R60). -/
def Obligations.StepRunsTheDecodedRequest : Prop :=
  ∀ (s : State) (r : ByteString) (rest : List ByteString) (i : Instr),
    s.requests = r :: rest → decode r = .ok i → step s = exec i s

/-- Every operation completes, whatever the table holds: it takes exactly the oldest request and gives exactly one
response of 18 bytes, whose status code is one of the eight (R40, R57, R140, R185). -/
def Obligations.EveryOperationCompletesWithOneResponse : Prop :=
  ∀ (i : Instr) (s : State),
    ∃ (t : State) (rsp : ByteString), exec i s = .next t ∧ s.Answers t rsp ∧ rsp.length = 18 ∧
      (byteAt rsp 0).toNat ≤ 7 ∧ t.nTrack = s.nTrack

/-- With no request pending the block holds the table and does nothing (R159). That an idle step is a step with the
same state is the model's reading (log entry 5). -/
def Obligations.IdleStepChangesNothing : Prop :=
  ∀ s : State, s.requests = [] → step s = .next s

/-- R60, the whole rule: an assigned opcode selects exactly one row of the opcode map and decodes to a well-formed
operation of that opcode; a request with any other opcode is answered `BadOp` with the table kept; a string that is
not 19 bytes long is refused at the boundary. -/
def Obligations.RequestDecodingIsTotal : Prop :=
  ∀ (s : State) (r : ByteString) (rest : List ByteString), s.requests = r :: rest →
    (r.length = 19 ∧ byteAt r 0 ∈ assignedOpcodes →
      (opcodeMap.filter (fun row => row.selects (byteAt r 0))).length = 1 ∧
      ∃ i : Instr, decode r = .ok i ∧ i.wellFormed = true ∧ i.opcode = byteAt r 0) ∧
    (r.length = 19 ∧ byteAt r 0 ∉ assignedOpcodes →
      opcodeMap.filter (fun row => row.selects (byteAt r 0)) = [] ∧
      ∃ t : State, step s = .next t ∧ s.TableKept t ∧ s.Answers t (errorBytes 0x07)) ∧
    (r.length ≠ 19 → step s = .refused .notARequest)

/-- R55: the response and the state after an operation do not depend on the request bytes that the format of its
opcode does not use. -/
def Obligations.UnusedRequestBytesAreIgnored : Prop :=
  ∀ (s : State) (r r' : ByteString), r.length = 19 → r'.length = 19 →
    (∀ k ∈ usedBytes (byteAt r 0), byteAt r k = byteAt r' k) →
    step (s.issueFirst r) = step (s.issueFirst r')

/-- Decoding the request of a well-formed operation gives the operation back, for every value of every operand. -/
def Obligations.DecodeOfEncodeIsTheOperation : Prop :=
  ∀ i : Instr, i.wellFormed = true → decode (encode i) = .ok i

/-- Encoding what a request decodes to gives every byte the request's format uses back. -/
def Obligations.EncodeOfDecodeKeepsUsedBytes : Prop :=
  ∀ (r : ByteString) (i : Instr), decode r = .ok i →
    (encode i).length = 19 ∧ ∀ k ∈ usedBytes (byteAt r 0), byteAt (encode i) k = byteAt r k

/-- Requests written out byte by byte from R56 and R59 (those of 95_test_vectors.md 3.3, P3 steps 9 and 5, P1 step 6)
decode to the operations they stand for. -/
def Obligations.WrittenOutRequestsDecode : Prop :=
  decode [0x03, 0xAB, 0xCD, 0xEF, 0x01, 0x01, 0x00, 0, 0, 0, 0, 0, 0, 0, 0, 0, 0, 0, 0]
    = .ok (.encode 0xABCDEF 0x01 0x01 0x00) ∧
  decode [0x11, 0x12, 0x34, 0x56, 0, 0, 0, 0, 0, 0, 0, 0, 0, 0, 0, 0, 0, 0, 0] = .ok (.track .incoming 0x123456) ∧
  decode [0x13, 0x00, 0xA1, 0xB2, 0xC3, 0, 0, 0, 0, 0, 0, 0, 0, 0, 0, 0, 0, 0, 0] = .ok (.seqCheck 0x00A1B2 0xC3) ∧
  decode [0x20, 0xAB, 0xCD, 0xEF, 0x00, 0x04, 0x01, 0, 0, 0, 0, 0, 0, 0, 0, 0, 0, 0, 0]
    = .ok (.send 0xABCDEF 0x04 0x01)

/-- R143, R147: a step that raises a status other than `OK` leaves the whole table as it was and answers the code and
17 zero bytes; R140: the code is one of `0x01` to `0x07`. -/
def Obligations.ErrorWritesNothing : Prop :=
  ∀ (s t : State) (rsp : ByteString), step s = .next t → t.responses = s.responses ++ [rsp] → byteAt rsp 0 ≠ 0x00 →
    s.TableKept t ∧ t.requests = s.requests.tail ∧ rsp = errorBytes (byteAt rsp 0) ∧ (byteAt rsp 0).toNat ≤ 7

/-- R186 and R185: from every state whose pending requests are requests, a run of as many steps as there are requests
answers each of them and stops with none pending; nothing hangs, faults or refuses. -/
def Obligations.RunAnswersEveryRequest : Prop :=
  ∀ s : State, s.Safe →
    ∃ (t : State) (rsps : List ByteString), Sys2Proof.core.run s.requests.length s = .next t ∧ t.requests = [] ∧
      t.responses = s.responses ++ rsps ∧ rsps.length = s.requests.length ∧ ∀ rsp ∈ rsps, rsp.length = 18

/-- R18: the response to a request, and the table after it, are a function of the request and of the table at its
start, and of nothing else the machine has seen. -/
def Obligations.ResponseDependsOnRequestAndTableOnly : Prop :=
  ∀ (s s' t : State) (r : ByteString), s.nTrack = s'.nTrack → s.tt = s'.tt →
    s.requests.head? = some r → s'.requests.head? = some r → step s = .next t →
    ∃ (t' : State) (rsp : ByteString), step s' = .next t' ∧ t'.nTrack = t.nTrack ∧ t'.tt = t.tt ∧
      t.responses = s.responses ++ [rsp] ∧ t'.responses = s'.responses ++ [rsp]

/-! ### The tracker table -/

/-- R23, R170: after reset no entry is valid and no request is pending; the reset event keeps the machine's capacity
and nothing else. -/
def Obligations.ResetLeavesNoDeviceRegistered : Prop :=
  (∀ k : Nat, (State.reset.entry k).valid = false) ∧ State.reset.requests = [] ∧
  ∀ (s : State) (k : Nat), (s.resetEvent.entry k).valid = false ∧ s.resetEvent.requests = [] ∧
    s.resetEvent.nTrack = s.nTrack

/-- The state after reset has the invariant: no two valid entries with the same key (R14), a capacity of at least 1 and
no entry beyond it (R6, R13), and, the model's own clause (log entry 1), every listed entry valid. -/
def Obligations.ResetHasTheTableInvariant : Prop := State.reset.Inv

/-- R14: every step keeps the invariant: no two valid entries with the same (direction, serial), and no more entries
than `N_TRACK`, which is at least 1; and, the model's own clause (log entry 1), every listed entry valid. -/
def Obligations.StepKeepsTheTableInvariant : Prop :=
  ∀ s t : State, s.Inv → step s = .next t → t.Inv

/-- R14 alone, from every state that has it: no operation ever makes a second entry for a device. -/
def Obligations.StepKeepsKeysUnique : Prop :=
  ∀ s t : State, s.KeysUnique → step s = .next t → t.KeysUnique

/-- `find(dir, serial)` (00_scope.md 5.2, R107): with unique keys it is the index of the one valid entry with that
direction and serial, or `none` when there is no such entry. -/
def Obligations.FindIsTheMatchingEntry : Prop :=
  ∀ (s : State) (dir : Dir) (serial : Serial), s.KeysUnique →
    (∀ k, s.find dir serial = some k ↔ s.Holds k dir serial) ∧
    (s.find dir serial = none ↔ ∀ k, ¬ s.Holds k dir serial)

/-- R15, R171: once valid, an entry keeps `valid`, direction and serial through every step; its `last` changes only by
SEQ_NEXT and SEND (an `OUT` entry) and by SEQ_CHECK and RECV (an `IN` entry), and only the entry looked up. -/
def Obligations.EntriesPersist : Prop :=
  ∀ (i : Instr) (s t : State) (k : Nat), exec i s = .next t → (s.entry k).valid = true →
    (t.entry k).valid = true ∧ (t.entry k).dir = (s.entry k).dir ∧ (t.entry k).serial = (s.entry k).serial ∧
    ((t.entry k).last ≠ (s.entry k).last →
      lookedUp i = some ((s.entry k).dir, (s.entry k).serial) ∧
      (match i with
        | .seqNext _ => (s.entry k).dir = .outgoing
        | .send _ _ _ => (s.entry k).dir = .outgoing
        | .seqCheck _ _ => (s.entry k).dir = .incoming
        | .recv _ => (s.entry k).dir = .incoming
        | _ => False))

/-- R106 item 5, R14, R107: an operation on one device leaves the tracker state of every other (direction, serial) as
it was, the same serial in the other direction included; an operation that looks nothing up leaves every one. -/
def Obligations.OtherDevicesAreUntouched : Prop :=
  ∀ (i : Instr) (s t : State) (dir : Dir) (serial : Serial), exec i s = .next t → lookedUp i ≠ some (dir, serial) →
    t.lastOf dir serial = s.lastOf dir serial

/-- R14: "a model may hold `TT` as a finite map … and that is the same machine": two machines whose tables are the
same finite map, in whatever order, give the same responses step by step and keep the same finite map. -/
def Obligations.TableIsAFiniteMap : Prop :=
  ∀ s s' t : State, s.SameMap s' → s.requests = s'.requests → s.responses = s'.responses → step s = .next t →
    ∃ t' : State, step s' = .next t' ∧ t.SameMap t' ∧ t.requests = t'.requests ∧ t.responses = t'.responses

/-- R13, U3: the direction, serial and `last` of a free entry are never read: two tables that differ only there give
the same responses and go on differing only there. -/
def Obligations.FreeEntryFieldsAreUnobservable : Prop :=
  ∀ s s' t : State, s.SameUsed s' → s.requests = s'.requests → s.responses = s'.responses → step s = .next t →
    ∃ t' : State, step s' = .next t' ∧ t.SameUsed t' ∧ t.requests = t'.requests ∧ t.responses = t'.responses

/-! ### The codec -/

/-- R32, R61: assembly and layout are big-endian. -/
def Obligations.AssemblyIsBigEndian : Prop :=
  (∀ h l : Byte, (be16 h l).toNat = h.toNat * 256 + l.toNat) ∧
  (∀ a b c : Byte, (be24 a b c).toNat = a.toNat * 65536 + b.toNat * 256 + c.toNat) ∧
  (∀ a b c : Byte, serialBytes (be24 a b c) = [a, b, c]) ∧ (∀ h l : Byte, halfBytes (be16 h l) = [h, l])

/-- R80: the fixed points the spec computes from its procedure. -/
def Obligations.ChecksumFixedPoints : Prop :=
  crc16 [] = 0xFFFE ∧ crc16 [0x00] = 0xE0F0 ∧ crc16 [0xFF] = 0xFE00 ∧
  crc16 [0x31, 0x32, 0x33, 0x34, 0x35, 0x36, 0x37, 0x38, 0x39] = 0x6E62 ∧
  crc16 [0x53, 0x39, 0x14, 0xDD, 0x1C, 0x49, 0x34, 0x12] = 0xDE39

/-- R32 and R80: the checksum reads its input as a bit stream, most significant bit of each byte first: it is the
serial division register run over the stream, one bit at a time. -/
def Obligations.ChecksumIsSerialOverTheBitStream : Prop :=
  ∀ b : ByteString,
    crc16 b = (streamBits b).foldl
      (fun (c : BitVec 16) bit => if c.getLsbD 15 ≠ bit then (c <<< 1) ^^^ 0x1021#16 else c <<< 1) 0xFFFE#16

/-- 93_implementation_defined.md G2: for a fixed length the checksum is linear over GF(2), up to the constant of the
initial value. -/
def Obligations.ChecksumIsLinear : Prop :=
  ∀ a b : ByteString, a.length = b.length →
    crc16 (List.zipWith (· ^^^ ·) a b) = crc16 a ^^^ crc16 b ^^^ crc16 (List.replicate a.length 0)

/-- R87 item 3 and G2: inverting any one bit of a byte string of any length changes its checksum, always. -/
def Obligations.SingleBitChangeMovesTheChecksum : Prop :=
  ∀ (b : ByteString) (j : Nat), j < 8 * b.length → crc16 (flipStreamBit b j) ≠ crc16 b

/-- R81: opcode `0x01` is CRC16 of `REQ[1]` to `REQ[15]`; it answers the checksum of its bytes, big-endian, and writes
no state; with the corner cases of the rule. -/
def Obligations.Crc16AnswersTheChecksum : Prop :=
  (∀ r : ByteString, r.length = 19 → byteAt r 0 = 0x01 → decode r = .ok (.crc16 ((r.drop 1).take 15))) ∧
  (∀ (data : ByteString) (s : State), ∃ t : State, exec (.crc16 data) s = .next t ∧ s.TableKept t ∧
    s.Answers t (okBytes [(crc16 data).extractLsb' 8 8, (crc16 data).extractLsb' 0 8])) ∧
  crc16 (List.replicate 15 0x00) = 0x35A2 ∧ crc16 (List.replicate 15 0xFF) = 0xADBE ∧
  crc16 [0x53, 0x39, 0x14, 0xDD, 0x1C, 0x49, 0x34, 0x12, 0xAB, 0xCD, 0xEF, 0xFF, 0x01, 0x01, 0x00] = 0x7B8C

/-- R84: opcode `0x02` is REALIGN of `REQ[1]` to `REQ[18]`; it answers the 17 realigned bytes with status `OK`,
whatever the buffer is, and writes no state; with the corner cases and the example of the rule. -/
def Obligations.RealignAnswersTheRealignedBytes : Prop :=
  (∀ r : ByteString, r.length = 19 → byteAt r 0 = 0x02 → decode r = .ok (.realign (r.drop 1))) ∧
  (∀ (raw : ByteString) (s : State), ∃ t : State, exec (.realign raw) s = .next t ∧ s.TableKept t ∧
    s.Answers t (0x00 :: realign raw) ∧ (realign raw).length = 17) ∧
  (∀ raw raw' : ByteString, (∀ i, i < 17 → byteAt raw i = byteAt raw' i) → realign raw = realign raw') ∧
  realign (List.replicate 18 0x00) = 0x50 :: List.replicate 16 0x00 ∧
  realign (List.replicate 18 0xFF) = 0x57 :: List.replicate 16 0xFF ∧
  realign [0x67, 0x22, 0x9B, 0xA3, 0x89, 0x26, 0x82, 0x55, 0x79, 0xBD, 0xFF, 0xE0, 0x20, 0x20, 0x0F, 0x71, 0x80, 0x00] =
    [0x53, 0x39, 0x14, 0xDD, 0x1C, 0x49, 0x34, 0x12, 0xAB, 0xCD, 0xEF, 0xFF, 0x01, 0x01, 0x00, 0x7B, 0x8C]

/-- R34: the realigned string, read as a bit stream, is `01010` and then the raw stream from its first bit on. -/
def Obligations.RealignmentIsAFiveBitShift : Prop :=
  ∀ raw : ByteString,
    (∀ j, 5 ≤ j → j < 136 → streamBit (realign raw) j = streamBit raw (j - 5)) ∧
    (List.range 5).map (streamBit (realign raw)) = [false, true, false, true, false]

/-- R82: the "equal and shorter form" of the realignment formula. -/
def Obligations.RealignEqualsItsShorterForm : Prop :=
  ∀ raw : ByteString, byteAt (realign raw) 0 = 0x50#8 ||| (byteAt raw 0 >>> 5) ∧
    ∀ i, 1 ≤ i → i ≤ 16 →
      byteAt (realign raw) i = ((byteAt raw (i - 1) &&& 0x1F#8) <<< 3) ||| (byteAt raw i >>> 5)

/-- R83: realignment reads neither `raw[17]` nor `raw[16][4:0]`, and its first byte is one of `0x50` to `0x57`, the
preamble's `0x53` iff `raw[0][7:5] = 011`. -/
def Obligations.RealignIgnoresTheTrailingBits : Prop :=
  (∀ raw raw' : ByteString, (∀ i, i < 16 → byteAt raw i = byteAt raw' i) →
    byteAt raw 16 >>> 5 = byteAt raw' 16 >>> 5 → realign raw = realign raw') ∧
  ∀ raw : ByteString, 0x50 ≤ (byteAt (realign raw) 0).toNat ∧ (byteAt (realign raw) 0).toNat ≤ 0x57 ∧
    (byteAt (realign raw) 0 = 0x53#8 ↔ (byteAt raw 0).extractLsb' 5 3 = 0b011#3)

/-- R87 item 1: realignment inverts the offset, for every filler; a frame whose first five bits are not `01010` comes
back with just those five replaced. -/
def Obligations.RealignInvertsOversample : Prop :=
  ∀ (f : ByteString) (pad : BitVec 13), f.length = 17 →
    realign (oversample f pad) = f.set 0 (0x50#8 ||| (byteAt f 0 &&& 0x07#8)) ∧
    ((byteAt f 0).extractLsb' 3 5 = 0b01010#5 → realign (oversample f pad) = f)

/-- R64: a raw buffer is taken for a frame of this protocol iff its first 59 stream bits have their fixed values. -/
def Obligations.OursIffFiftyNineBitsAreFixed : Prop :=
  ∀ raw : ByteString, (realign raw).take 8 = [0x53, 0x39, 0x14, 0xDD, 0x1C, 0x49, 0x34, 0x12] ↔
    (∀ i, i < 7 → byteAt raw i = byteAt [0x67, 0x22, 0x9B, 0xA3, 0x89, 0x26, 0x82] i) ∧
    (byteAt raw 7).extractLsb' 5 3 = 0b010#3

/-- R85: opcode `0x03` is ENCODE of `REQ[1]` to `REQ[6]`; it answers the 17 bytes of the frame for a recognised command
and `BadCommand` for any other; it writes no state, and no sequence counter. -/
def Obligations.EncodeAnswersTheFrame : Prop :=
  (∀ r : ByteString, r.length = 19 → byteAt r 0 = 0x03 →
    decode r = .ok (.encode (be24 (byteAt r 1) (byteAt r 2) (byteAt r 3)) (byteAt r 4) (byteAt r 5) (byteAt r 6))) ∧
  ∀ (serial : Serial) (seq cmd opt : Byte) (s : State),
    let head : ByteString :=
      [0x53, 0x39, 0x14, 0xDD, 0x1C, 0x49, 0x34, 0x12, serial.extractLsb' 16 8, serial.extractLsb' 8 8,
        serial.extractLsb' 0 8, 0xFF, seq, cmd, opt]
    ∃ t : State, exec (.encode serial seq cmd opt) s = .next t ∧ s.TableKept t ∧
      s.Answers t
        (if 1 ≤ cmd.toNat ∧ cmd.toNat ≤ 6 then
          okBytes (head ++ [(crc16 head).extractLsb' 8 8, (crc16 head).extractLsb' 0 8])
        else errorBytes 0x03)

/-- R86: opcode `0x04` is DECODE of `REQ[1]` to `REQ[18]`: its checks in exactly their order, and the packet as found in
the frame; the separator and the serial are not looked at, and no state is written. -/
def Obligations.DecodeReportsTheFirstFailedCheck : Prop :=
  (∀ r : ByteString, r.length = 19 → byteAt r 0 = 0x04 → decode r = .ok (.decode (r.drop 1))) ∧
  ∀ (raw : ByteString) (s : State),
    let f := realign raw
    ∃ t : State, exec (.decode raw) s = .next t ∧ s.TableKept t ∧
      s.Answers t
        (if f.take 8 ≠ [0x53, 0x39, 0x14, 0xDD, 0x1C, 0x49, 0x34, 0x12] then errorBytes 0x01
        else if (crc16 (f.take 15)).toNat ≠ (byteAt f 15).toNat * 256 + (byteAt f 16).toNat then errorBytes 0x02
        else if ¬ (1 ≤ (byteAt f 13).toNat ∧ (byteAt f 13).toNat ≤ 6) then errorBytes 0x03
        else okBytes [byteAt f 8, byteAt f 9, byteAt f 10, byteAt f 12, byteAt f 13, byteAt f 14])

/-- R87 items 2 and 4: DECODE of the oversampled frame of ENCODE gives the packet back, for every serial, sequence
number, options byte and filler and every recognised command. -/
def Obligations.DecodeOfEncodedFrameIsThePacket : Prop :=
  ∀ (serial : Serial) (seq cmd opt : Byte) (pad : BitVec 13) (s t : State) (frame : ByteString),
    1 ≤ cmd.toNat → cmd.toNat ≤ 6 → exec (.encode serial seq cmd opt) s = .next t →
    t.responses = s.responses ++ [0x00 :: frame] →
    ∃ t' : State, exec (.decode (oversample frame pad)) s = .next t' ∧ s.TableKept t' ∧
      s.Answers t' (okBytes (serialBytes serial ++ [seq, cmd, opt]))

/-- R87 item 3: what DECODE answers for a frame with one bit inverted depends on where the bit is: the first five are
restored, the rest of the preamble is `BadPreamble`, everything after it `BadChecksum`. -/
def Obligations.SingleBitErrorVerdict : Prop :=
  ∀ (serial : Serial) (seq cmd opt : Byte) (pad : BitVec 13) (j : Nat) (s : State),
    1 ≤ cmd.toNat → cmd.toNat ≤ 6 → j < 136 →
    ∃ t : State, exec (.decode (oversample (flipStreamBit (buildFrame serial seq cmd opt) j) pad)) s = .next t ∧
      s.TableKept t ∧
      s.Answers t
        (if j < 5 then okBytes (serialBytes serial ++ [seq, cmd, opt])
        else if j < 64 then errorBytes 0x01 else errorBytes 0x02)

/-- R180: a frame that is already aligned, followed by any byte, is shifted twice by DECODE and RECV: `BadPreamble`. -/
def Obligations.AlignedFrameIsBadPreamble : Prop :=
  ∀ (serial : Serial) (seq cmd opt last : Byte) (s : State),
    (∃ t : State, exec (.decode (buildFrame serial seq cmd opt ++ [last])) s = .next t ∧ s.TableKept t ∧
      s.Answers t (errorBytes 0x01)) ∧
    ∃ t : State, exec (.recv (buildFrame serial seq cmd opt ++ [last])) s = .next t ∧ s.TableKept t ∧
      s.Answers t (errorBytes 0x01)

/-! ### The tracker operations -/

/-- R100, R101: opcodes `0x10` and `0x11` are TRACK `OUT` and `IN` of the serial in `REQ[1]` to `REQ[3]`. TRACK of a
device already present answers `OK` and changes nothing, also when the table is full; of an absent one it writes all
four fields of the lowest free entry, with `last` 0, and no other entry; when every entry is valid it answers
`RegistryFull` and changes nothing. -/
def Obligations.TrackRegistersInTheLowestFreeEntry : Prop :=
  (∀ r : ByteString, r.length = 19 →
    (byteAt r 0 = 0x10 → decode r = .ok (.track .outgoing (be24 (byteAt r 1) (byteAt r 2) (byteAt r 3)))) ∧
    (byteAt r 0 = 0x11 → decode r = .ok (.track .incoming (be24 (byteAt r 1) (byteAt r 2) (byteAt r 3))))) ∧
  ∀ (s : State) (dir : Dir) (serial : Serial), s.tt.length ≤ s.nTrack →
    ((∃ k, s.Holds k dir serial) →
      ∃ t : State, exec (.track dir serial) s = .next t ∧ s.TableKept t ∧ s.Answers t (okBytes [])) ∧
    ((∀ k, ¬ s.Holds k dir serial) → ∀ k, k < s.nTrack → (s.entry k).valid = false →
      (∀ j, j < k → (s.entry j).valid = true) →
      ∃ t : State, exec (.track dir serial) s = .next t ∧
        s.EntryWritten t k { valid := true, dir := dir, serial := serial, last := 0 } ∧ s.Answers t (okBytes [])) ∧
    ((∀ k, ¬ s.Holds k dir serial) → (∀ k, k < s.nTrack → (s.entry k).valid = true) →
      ∃ t : State, exec (.track dir serial) s = .next t ∧ s.TableKept t ∧ s.Answers t (errorBytes 0x06))

/-- R38, R101, R182: whatever happened between them, a second TRACK of a device that an earlier one registered answers
`OK` and does not set `last` back. -/
def Obligations.SecondTrackDoesNotClear : Prop :=
  ∀ (s t : State) (dir : Dir) (serial : Serial), exec (.track dir serial) s = .next t →
    t.responses = s.responses ++ [okBytes []] →
    ∃ k, t.Holds k dir serial ∧
      ∀ u : State, u.Holds k dir serial →
        ∃ v : State, exec (.track dir serial) u = .next v ∧ u.TableKept v ∧ u.Answers v (okBytes [])

/-- R102: opcode `0x12` is SEQ_NEXT of the serial in `REQ[1]` to `REQ[3]`. SEQ_NEXT increments the `OUT` entry's
counter mod 256, stores it, answers it, and writes no other entry; for a serial with no `OUT` entry it answers
`UnknownSerial` and changes nothing. -/
def Obligations.SeqNextAdvancesTheCounter : Prop :=
  (∀ r : ByteString, r.length = 19 → byteAt r 0 = 0x12 →
    decode r = .ok (.seqNext (be24 (byteAt r 1) (byteAt r 2) (byteAt r 3)))) ∧
  ∀ (s : State) (serial : Serial),
    (∀ k, s.find .outgoing serial = some k →
      ∃ (t : State) (v : Byte), v.toNat = ((s.entry k).last.toNat + 1) % 256 ∧ exec (.seqNext serial) s = .next t ∧
        s.LastWritten t k v ∧ s.Answers t (okBytes (serialBytes serial ++ [v]))) ∧
    (s.find .outgoing serial = none →
      ∃ t : State, exec (.seqNext serial) s = .next t ∧ s.TableKept t ∧ s.Answers t (errorBytes 0x04))

/-- R102, R103: `n` SEQ_NEXT requests for one serial answer `last + 1`, `last + 2`, …, each mod 256. -/
def Obligations.SuccessiveSeqNextCountsModulo256 : Prop :=
  ∀ (n k : Nat) (serial : Serial) (s : State), s.find .outgoing serial = some k →
    s.requests = List.replicate n (encode (.seqNext serial)) →
    ∃ t : State, Sys2Proof.core.run n s = .next t ∧
      s.LastWritten t k (BitVec.ofNat 8 ((s.entry k).last.toNat + n)) ∧ t.requests = [] ∧
      t.responses = s.responses ++ (List.range n).map fun m =>
        okBytes (serialBytes serial ++ [BitVec.ofNat 8 ((s.entry k).last.toNat + m + 1)])

/-- R105: `s` is stale iff it is one of `L, L-1, …, L-63` mod 256; on plain integers, for `L >= 63` that is
`L-63 <= s <= L`, and for `L <= 62` it is `s <= L` or `s >= L+193`; fresh is `1 <= (s - L) mod 256 <= 192`. -/
def Obligations.StaleIsTheSixtyFourValueWindow : Prop :=
  ∀ l s : Byte,
    (stale l s = true ↔ ∃ d : Nat, d < 64 ∧ s = l - BitVec.ofNat 8 d) ∧
    (63 ≤ l.toNat → (stale l s = true ↔ l.toNat ≤ s.toNat + 63 ∧ s.toNat ≤ l.toNat)) ∧
    (l.toNat ≤ 62 → (stale l s = true ↔ s.toNat ≤ l.toNat ∨ l.toNat + 193 ≤ s.toNat)) ∧
    (stale l s = false ↔ 1 ≤ (s - l).toNat ∧ (s - l).toNat ≤ 192)

/-- R105: for every `L` exactly 64 values are stale, and so 192 are fresh. -/
def Obligations.SixtyFourValuesAreStale : Prop :=
  ∀ l : Byte, ((List.range 256).filter fun n => stale l (BitVec.ofNat 8 n)).length = 64

/-- R104: opcode `0x13` is SEQ_CHECK of `REQ[1]` to `REQ[4]`. SEQ_CHECK records and answers a fresh sequence number in
the `IN` entry and writes no other entry; a stale one is `StaleSequence` and a serial with no `IN` entry
`UnknownSerial`, both with the table kept. The test is on the distance `(L - s) mod 256`. -/
def Obligations.SeqCheckAcceptsExactlyTheFresh : Prop :=
  (∀ r : ByteString, r.length = 19 → byteAt r 0 = 0x13 →
    decode r = .ok (.seqCheck (be24 (byteAt r 1) (byteAt r 2) (byteAt r 3)) (byteAt r 4))) ∧
  ∀ (s : State) (serial : Serial) (q : Byte),
    (∀ k, s.find .incoming serial = some k → 64 ≤ ((s.entry k).last.toNat + 256 - q.toNat) % 256 →
      ∃ t : State, exec (.seqCheck serial q) s = .next t ∧ s.LastWritten t k q ∧
        s.Answers t (okBytes (serialBytes serial ++ [q]))) ∧
    (∀ k, s.find .incoming serial = some k → ((s.entry k).last.toNat + 256 - q.toNat) % 256 < 64 →
      ∃ t : State, exec (.seqCheck serial q) s = .next t ∧ s.TableKept t ∧ s.Answers t (errorBytes 0x05)) ∧
    (s.find .incoming serial = none →
      ∃ t : State, exec (.seqCheck serial q) s = .next t ∧ s.TableKept t ∧ s.Answers t (errorBytes 0x04))

/-- R106 item 2: the frame `d` steps after the last accepted one (mod 256) is accepted iff `1 <= d <= 192`. -/
def Obligations.LossOf191FramesIsTolerated : Prop :=
  ∀ (s t : State) (serial : Serial) (k d : Nat), s.find .incoming serial = some k → d < 256 →
    exec (.seqCheck serial ((s.entry k).last + BitVec.ofNat 8 d)) s = .next t →
    (s.LastWritten t k ((s.entry k).last + BitVec.ofNat 8 d) ∧ s.Answers t
        (okBytes (serialBytes serial ++ [(s.entry k).last + BitVec.ofNat 8 d])) ↔ 1 ≤ d ∧ d ≤ 192)

/-- R184: straight after TRACK registers an absent device as `IN`, the fresh set is 1 to 192 and the stale set is 0 and
193 to 255. -/
def Obligations.FirstFramesAfterRegistration : Prop :=
  ∀ (s t : State) (serial : Serial) (q : Byte), (∀ k, ¬ s.Holds k .incoming serial) →
    exec (.track .incoming serial) s = .next t → t.responses = s.responses ++ [okBytes []] →
    ∃ u : State, exec (.seqCheck serial q) t = .next u ∧
      t.Answers u (if 1 ≤ q.toNat ∧ q.toNat ≤ 192 then okBytes (serialBytes serial ++ [q]) else errorBytes 0x05)

/-- R172: after reset SEQ_NEXT, SEQ_CHECK and SEND of a recognised command answer `UnknownSerial` for every serial, and
RECV of every buffer answers a status other than `OK`. -/
def Obligations.NothingIsKnownAfterReset : Prop :=
  ∀ (serial : Serial) (q cmd opt : Byte) (raw : ByteString),
    (∃ t : State, exec (.seqNext serial) .reset = .next t ∧ State.reset.Answers t (errorBytes 0x04)) ∧
    (∃ t : State, exec (.seqCheck serial q) .reset = .next t ∧ State.reset.Answers t (errorBytes 0x04)) ∧
    (1 ≤ cmd.toNat ∧ cmd.toNat ≤ 6 →
      ∃ t : State, exec (.send serial cmd opt) .reset = .next t ∧ State.reset.Answers t (errorBytes 0x04)) ∧
    ∃ (t : State) (code : Byte), exec (.recv raw) .reset = .next t ∧ 1 ≤ code.toNat ∧ code.toNat ≤ 4 ∧
      State.reset.Answers t (errorBytes code)

/-! ### SEND and RECV -/

/-- R120: opcode `0x20` is SEND of `REQ[1]` to `REQ[3]`, `REQ[5]` and `REQ[6]`. SEND tests the command first, then
looks up the `OUT` entry; with either refusal the counter stays. Otherwise the counter advances by one mod 256, no
other entry is written, and the answer is the frame with that number. -/
def Obligations.SendAdvancesAndBuildsTheFrame : Prop :=
  (∀ r : ByteString, r.length = 19 → byteAt r 0 = 0x20 →
    decode r = .ok (.send (be24 (byteAt r 1) (byteAt r 2) (byteAt r 3)) (byteAt r 5) (byteAt r 6))) ∧
  ∀ (s : State) (serial : Serial) (cmd opt : Byte),
    (¬ (1 ≤ cmd.toNat ∧ cmd.toNat ≤ 6) →
      ∃ t : State, exec (.send serial cmd opt) s = .next t ∧ s.TableKept t ∧ s.Answers t (errorBytes 0x03)) ∧
    (1 ≤ cmd.toNat ∧ cmd.toNat ≤ 6 → s.find .outgoing serial = none →
      ∃ t : State, exec (.send serial cmd opt) s = .next t ∧ s.TableKept t ∧ s.Answers t (errorBytes 0x04)) ∧
    (1 ≤ cmd.toNat ∧ cmd.toNat ≤ 6 → ∀ k, s.find .outgoing serial = some k →
      ∃ (t : State) (v : Byte), v.toNat = ((s.entry k).last.toNat + 1) % 256 ∧
        exec (.send serial cmd opt) s = .next t ∧ s.LastWritten t k v ∧
        (let head : ByteString :=
          [0x53, 0x39, 0x14, 0xDD, 0x1C, 0x49, 0x34, 0x12, serial.extractLsb' 16 8, serial.extractLsb' 8 8,
            serial.extractLsb' 0 8, 0xFF, v, cmd, opt]
        s.Answers t (okBytes (head ++ [(crc16 head).extractLsb' 8 8, (crc16 head).extractLsb' 0 8]))))

/-- R121: SEND is SEQ_NEXT followed by ENCODE. For a recognised command, when SEQ_NEXT answers `OK` with `v`, SEND from
the same state answers the frame ENCODE returns for `v` and leaves the table SEQ_NEXT leaves; when SEQ_NEXT answers
`UnknownSerial`, so does SEND. For any other command SEND answers `BadCommand` and changes nothing, where SEQ_NEXT has
advanced the counter before ENCODE refuses. -/
def Obligations.SendIsSeqNextThenEncode : Prop :=
  ∀ (s t : State) (serial : Serial) (cmd opt : Byte), exec (.seqNext serial) s = .next t →
    (1 ≤ cmd.toNat ∧ cmd.toNat ≤ 6 → ∀ v : Byte, t.responses = s.responses ++ [okBytes (serialBytes serial ++ [v])] →
      ∃ (u w : State) (rsp : ByteString), exec (.encode serial v cmd opt) t = .next u ∧
        exec (.send serial cmd opt) s = .next w ∧ t.Answers u rsp ∧ byteAt rsp 0 = 0x00 ∧ s.Answers w rsp ∧
        w.nTrack = t.nTrack ∧ w.tt = t.tt) ∧
    (1 ≤ cmd.toNat ∧ cmd.toNat ≤ 6 → t.responses = s.responses ++ [errorBytes 0x04] →
      exec (.send serial cmd opt) s = .next t) ∧
    (¬ (1 ≤ cmd.toNat ∧ cmd.toNat ≤ 6) →
      (∃ w : State, exec (.send serial cmd opt) s = .next w ∧ s.TableKept w ∧ s.Answers w (errorBytes 0x03)) ∧
      ∀ v : Byte, t.responses = s.responses ++ [okBytes (serialBytes serial ++ [v])] →
        ∃ u : State, exec (.encode serial v cmd opt) t = .next u ∧ t.TableKept u ∧ t.Answers u (errorBytes 0x03) ∧
          s.lastOf .outgoing serial = some (v - 1) ∧ u.lastOf .outgoing serial = some v)

/-- R122: opcode `0x21` is RECV of `REQ[1]` to `REQ[18]`: RECV's checks in exactly their order; on `OK` the `last` of
the `IN` entry becomes the sequence number, no other entry is written, and the packet is the answer; with any other
status the table is kept. -/
def Obligations.RecvAcceptsOrReportsTheFirstFailedCheck : Prop :=
  (∀ r : ByteString, r.length = 19 → byteAt r 0 = 0x21 → decode r = .ok (.recv (r.drop 1))) ∧
  ∀ (raw : ByteString) (s : State),
    let f := realign raw
    let serial := be24 (byteAt f 8) (byteAt f 9) (byteAt f 10)
    let ours := f.take 8 = [0x53, 0x39, 0x14, 0xDD, 0x1C, 0x49, 0x34, 0x12]
    let intact := (crc16 (f.take 15)).toNat = (byteAt f 15).toNat * 256 + (byteAt f 16).toNat
    let known := 1 ≤ (byteAt f 13).toNat ∧ (byteAt f 13).toNat ≤ 6
    let rejects := fun code => ∃ t : State, exec (.recv raw) s = .next t ∧ s.TableKept t ∧ s.Answers t (errorBytes code)
    (¬ ours → rejects 0x01) ∧ (ours → ¬ intact → rejects 0x02) ∧ (ours → intact → ¬ known → rejects 0x03) ∧
    (ours → intact → known → s.find .incoming serial = none → rejects 0x04) ∧
    (ours → intact → known → ∀ k, s.find .incoming serial = some k →
      ((s.entry k).last.toNat + 256 - (byteAt f 12).toNat) % 256 < 64 → rejects 0x05) ∧
    (ours → intact → known → ∀ k, s.find .incoming serial = some k →
      64 ≤ ((s.entry k).last.toNat + 256 - (byteAt f 12).toNat) % 256 →
      ∃ t : State, exec (.recv raw) s = .next t ∧ s.LastWritten t k (byteAt f 12) ∧
        s.Answers t (okBytes [byteAt f 8, byteAt f 9, byteAt f 10, byteAt f 12, byteAt f 13, byteAt f 14]))

/-- R123: RECV is DECODE followed by SEQ_CHECK. When DECODE answers another status than `OK`, RECV answers the same and
changes nothing; when DECODE answers a packet, RECV answers the status of SEQ_CHECK of its serial and sequence number
from the same state and leaves the table SEQ_CHECK leaves, and on `OK` its result is the whole packet. -/
def Obligations.RecvIsDecodeThenSeqCheck : Prop :=
  ∀ (s t : State) (raw : ByteString), exec (.decode raw) s = .next t →
    (∀ code : Byte, code ≠ 0x00 → t.responses = s.responses ++ [errorBytes code] →
      exec (.recv raw) s = .next t ∧ s.TableKept t) ∧
    (∀ (serial : Serial) (q cmd opt : Byte),
      t.responses = s.responses ++ [okBytes (serialBytes serial ++ [q, cmd, opt])] →
      ∃ (u w : State) (rsp rsp' : ByteString), exec (.seqCheck serial q) s = .next u ∧ exec (.recv raw) s = .next w ∧
        s.Answers u rsp ∧ s.Answers w rsp' ∧ byteAt rsp' 0 = byteAt rsp 0 ∧ w.nTrack = u.nTrack ∧ w.tt = u.tt ∧
        rsp' = (if byteAt rsp 0 = 0x00 then okBytes (serialBytes serial ++ [q, cmd, opt]) else rsp))

/-- R106 item 1: after an accepted frame, every further copy of it, with whatever filler bits, is `StaleSequence` and
leaves the table: of the copies of one burst at most one is accepted. -/
def Obligations.SecondCopyIsStale : Prop :=
  ∀ (s t : State) (raw raw' : ByteString) (rsp : ByteString), exec (.recv raw) s = .next t → s.Answers t rsp →
    byteAt rsp 0 = 0x00 → realign raw' = realign raw →
    ∃ u : State, exec (.recv raw') t = .next u ∧ t.TableKept u ∧ t.Answers u (errorBytes 0x05)

/-- R181: a SEQ_CHECK with the sequence number that RECV has just accepted is `StaleSequence`. -/
def Obligations.SeqCheckAfterRecvIsStale : Prop :=
  ∀ (s t : State) (raw : ByteString) (serial : Serial) (q cmd opt : Byte), exec (.recv raw) s = .next t →
    t.responses = s.responses ++ [okBytes (serialBytes serial ++ [q, cmd, opt])] →
    ∃ u : State, exec (.seqCheck serial q) t = .next u ∧ t.TableKept u ∧ t.Answers u (errorBytes 0x05)

/-- The two pipelines fit (R120, R122, R183): the frame a SEND answers, delivered by a radio with any filler to a block
that listens to that serial and finds the number fresh, is accepted by RECV, which answers the packet sent and moves
the `IN` entry of that serial alone. -/
def Obligations.SentFrameIsReceived : Prop :=
  ∀ (s t u : State) (serial : Serial) (cmd opt : Byte) (frame : ByteString) (pad : BitVec 13) (k : Nat),
    1 ≤ cmd.toNat ∧ cmd.toNat ≤ 6 → exec (.send serial cmd opt) s = .next t →
    t.responses = s.responses ++ [0x00 :: frame] → u.find .incoming serial = some k →
    stale (u.entry k).last (byteAt frame 12) = false →
    ∃ v : State, exec (.recv (oversample frame pad)) u = .next v ∧ u.LastWritten v k (byteAt frame 12) ∧
      u.Answers v (okBytes (serialBytes serial ++ [byteAt frame 12, cmd, opt]))

/-- R38: what a request issued twice, with nothing between, does the second time. The codec operations answer the same
and write nothing; TRACK answers the same and changes nothing further; SEQ_NEXT and SEND advance the counter both
times, and the second answer carries the next sequence number; SEQ_CHECK and RECV find the number stale if the first
was accepted. An operation that failed the first time fails the same way the second. -/
def Obligations.SecondIssueOfTheSameRequest : Prop :=
  ∀ (i : Instr) (s : State), ∃ (t u : State) (rsp rsp' : ByteString),
    exec i s = .next t ∧ s.Answers t rsp ∧ exec i t = .next u ∧ t.Answers u rsp' ∧
    (match i with
      | .crc16 _ | .realign _ | .encode _ _ _ _ | .decode _ => rsp' = rsp ∧ s.TableKept t ∧ t.TableKept u
      | .track _ _ => rsp' = rsp ∧ t.TableKept u
      | .seqNext serial =>
        (byteAt rsp 0 = 0x00 →
          byteAt rsp' 0 = 0x00 ∧ byteAt rsp' 4 = byteAt rsp 4 + 1 ∧
            t.lastOf .outgoing serial = (s.lastOf .outgoing serial).map (· + 1) ∧
            u.lastOf .outgoing serial = (t.lastOf .outgoing serial).map (· + 1)) ∧
        (byteAt rsp 0 ≠ 0x00 → rsp' = rsp ∧ s.TableKept t ∧ t.TableKept u)
      | .send serial _ _ =>
        (byteAt rsp 0 = 0x00 →
          byteAt rsp' 0 = 0x00 ∧ byteAt rsp' 13 = byteAt rsp 13 + 1 ∧
            t.lastOf .outgoing serial = (s.lastOf .outgoing serial).map (· + 1) ∧
            u.lastOf .outgoing serial = (t.lastOf .outgoing serial).map (· + 1)) ∧
        (byteAt rsp 0 ≠ 0x00 → rsp' = rsp ∧ s.TableKept t ∧ t.TableKept u)
      | .seqCheck _ _ | .recv _ =>
        (byteAt rsp 0 = 0x00 → rsp' = errorBytes 0x05 ∧ t.TableKept u) ∧
        (byteAt rsp 0 ≠ 0x00 → rsp' = rsp ∧ s.TableKept t ∧ t.TableKept u))

/-! ### Host sequences -/

/-- R132, R134, R130: the two SENDs of `SET_BRIGHTNESS serial, v` answer the frames with bytes 13 and 14 `05 F0` and
`04 v` and consecutive sequence numbers, and the host transmits 20 copies of each. The spec does not state the range of
`v`; that it is every byte is the model's choice (log entry 16). -/
def Obligations.SetBrightnessSendsTwoFrames : Prop :=
  ∀ (s : State) (serial : Serial) (v : Byte) (k : Nat), s.find .outgoing serial = some k →
    s.requests = (HostSide.setBrightness serial v).map encode →
    let f1 := buildFrame serial ((s.entry k).last + 1) 0x05 0xF0
    let f2 := buildFrame serial ((s.entry k).last + 2) 0x04 v
    (∃ t : State, Sys2Proof.core.run 2 s = .next t ∧ s.LastWritten t k ((s.entry k).last + 2) ∧ t.requests = [] ∧
      t.responses = s.responses ++ [0x00 :: f1, 0x00 :: f2]) ∧
    List.zipWith HostSide.transmitted (HostSide.setBrightness serial v) [0x00 :: f1, 0x00 :: f2] =
      [List.replicate 20 f1, List.replicate 20 f2]

/-- R133: `amount` is the integer nearest to `15 * (370 - mireds) / 217`, never a tie, and changes exactly at the mireds
the rule lists; the two SENDs are WARMER with `F0` and COOLER with `amount`. -/
def Obligations.ColorTempAmountFollowsTheTable : Prop :=
  (∀ m : Nat, m < 218 → ∃ a : Nat, HostSide.colorTempAmount (153 + m) = some a ∧
    2 * (217 * a) < 30 * (217 - m) + 217 ∧ 30 * (217 - m) < 2 * (217 * a) + 217) ∧
  [153, 161, 175, 190, 204, 219, 233, 248, 262, 276, 291, 305, 320, 334, 349, 363].map HostSide.colorTempAmount =
    [15, 14, 13, 12, 11, 10, 9, 8, 7, 6, 5, 4, 3, 2, 1, 0].map some ∧
  [160, 174, 189, 203, 218, 232, 247, 261, 275, 290, 304, 319, 333, 348, 362, 370].map HostSide.colorTempAmount =
    [15, 14, 13, 12, 11, 10, 9, 8, 7, 6, 5, 4, 3, 2, 1, 0].map some ∧
  ∀ (serial : Serial) (m a : Nat), HostSide.colorTempAmount m = some a →
    HostSide.setColorTemp serial m = some [.send serial 0x03 0xF0, .send serial 0x02 (BitVec.ofNat 8 a)]

/-- R131: a poll of the driving loop that finds a raw buffer issues one RECV with its 18 bytes. On `OK` the host
dispatches the packet's command and options to the serial and logs nothing; on any other status it dispatches nothing
and logs the status, but for `BadPreamble`; either way it goes on. A poll that finds nothing, and any poll while a burst
is in progress, issues nothing. That a buffer of another length issues nothing and that an `OK` is not logged is the
model's choice (log entry 17). -/
def Obligations.PollIssuesOneRecv : Prop :=
  ∀ h : HostSide.Loop,
    h.turn (.poll none) = .next h ∧
    (∀ raw : ByteString, h.burstLeft ≠ [] ∨ raw.length ≠ 18 → h.turn (.poll (some raw)) = .next h) ∧
    ∀ raw : ByteString, h.burstLeft = [] → raw.length = 18 →
      ∃ (h' : HostSide.Loop) (rsp : ByteString) (st : Status),
        h.turn (.poll (some raw)) = .next h' ∧
        exec (.recv raw) (h.block.issueFirst (encode (.recv raw))) = .next h'.block ∧
        h'.block.requests = h.block.requests ∧ h'.block.responses = h.block.responses ++ [rsp] ∧
        h'.burstLeft = [] ∧ h'.onAir = h.onAir ∧ st.code = byteAt rsp 0 ∧
        (st = .ok →
          h'.dispatches = h.dispatches ++
            [(be24 (byteAt rsp 1) (byteAt rsp 2) (byteAt rsp 3), byteAt rsp 5, byteAt rsp 6)] ∧ h'.log = h.log) ∧
        (st ≠ .ok → h'.dispatches = h.dispatches ∧ h'.log = h.log ++ if st = .badPreamble then [] else [st])

/-- R130, R131, R176: after a SEND that answers `OK` the host transmits its frame 20 times. Until the last of the 20
every other turn of the loop, a poll or a call, does nothing: the block is not asked again and no RECV is issued. That
a call or a poll during a burst is a turn that changes nothing is the model's choice (log entry 17). -/
def Obligations.BurstRunsToCompletion : Prop :=
  ∀ (h : HostSide.Loop) (serial : Serial) (cmd opt : Byte) (t : State) (frame : ByteString), h.burstLeft = [] →
    exec (.send serial cmd opt) (h.block.issueFirst (encode (.send serial cmd opt))) = .next t →
    t.responses = h.block.responses ++ [0x00 :: frame] →
    ∃ h' : HostSide.Loop, h.turn (.call (.send serial cmd opt)) = .next h' ∧ h'.block = t ∧ h'.onAir = h.onAir ∧
      h'.dispatches = h.dispatches ∧ h'.log = h.log ∧
      ∀ us : List HostSide.Turn, us.countP HostSide.Turn.isTransmit < 20 →
        h'.turns (us ++ [.transmit]) = .next { h' with
          burstLeft := List.replicate (19 - us.countP HostSide.Turn.isTransmit) frame
          onAir := h.onAir ++ List.replicate (us.countP HostSide.Turn.isTransmit + 1) frame }
end

