-- ==== Sys2Proof/Laws/Codec.lean ====
section
/-! SUPPORT. The small lemmas of operand assembly, realignment, frame building and the receive checks. -/

namespace Sys2Proof

/-! ### Byte strings -/

theorem byteAt_map_range (f : Nat → Byte) (n i : Nat) (h : i < n) : byteAt ((List.range n).map f) i = f i := by
  simp [byteAt, h]

theorem byteAt_append_left (a b : ByteString) (i : Nat) (h : i < a.length) : byteAt (a ++ b) i = byteAt a i := by
  simp [byteAt, List.getElem?_append_left h]

/-- Byte strings of one length are equal iff their bytes are. -/
theorem byteString_ext {a b : ByteString} (hl : a.length = b.length) (h : ∀ i, i < a.length → byteAt a i = byteAt b i) :
    a = b := by
  refine List.ext_getElem hl fun i h1 h2 => ?_
  have := h i h1
  simpa [byteAt, h1, h2] using this

@[simp] theorem serialBytes_length (serial : Serial) : (serialBytes serial).length = 3 := rfl
@[simp] theorem halfBytes_length (c : Half) : (halfBytes c).length = 2 := rfl

/-- Assembling the bytes of a serial gives it back. -/
@[simp] theorem be24_extract (serial : Serial) :
    be24 (serial.extractLsb' 16 8) (serial.extractLsb' 8 8) (serial.extractLsb' 0 8) = serial := by
  apply BitVec.eq_of_getLsbD_eq
  intro i hi
  simp only [be24, BitVec.getLsbD_append, BitVec.getLsbD_extractLsb']
  by_cases h0 : i < 8
  · simp [h0]
  · by_cases h1 : i - 8 < 8
    · simp only [h0, h1, if_true, if_false, decide_true, Bool.true_and]; congr 1; omega
    · simp only [h0, h1, if_false]
      have : i - 8 - 8 < 8 := by omega
      simp only [this, decide_true, Bool.true_and]; congr 1; omega

/-- Assembling the bytes of a checksum gives it back. -/
@[simp] theorem be16_extract (c : Half) : be16 (c.extractLsb' 8 8) (c.extractLsb' 0 8) = c := by
  apply BitVec.eq_of_getLsbD_eq
  intro i hi
  simp only [be16, BitVec.getLsbD_append, BitVec.getLsbD_extractLsb']
  by_cases h0 : i < 8
  · simp [h0]
  · have : i - 8 < 8 := by omega
    simp only [h0, this, if_false, decide_true, Bool.true_and]; congr 1; omega

/-- The bytes of an assembled serial are the bytes it was assembled from. -/
@[simp] theorem serialBytes_assembled (a b c : Byte) : serialBytes (be24 a b c) = [a, b, c] := by
  simp only [serialBytes, List.cons.injEq, and_true]
  refine ⟨?_, ?_, ?_⟩ <;>
  · apply BitVec.eq_of_getLsbD_eq
    intro i hi
    simp only [be24, BitVec.getLsbD_append, BitVec.getLsbD_extractLsb', hi, decide_true, Bool.true_and]
    first
    | rw [if_pos (by omega)]; congr 1; omega
    | rw [if_neg (by omega), if_pos (by omega)]; congr 1; omega
    | rw [if_neg (by omega), if_neg (by omega)]; congr 1; omega

/-! ### Responses -/

/-- The response of a completed operation in the statements' words. -/
theorem response_ok (result : ByteString) : response .ok (zeroFill resultLen result) = Machine.okBytes result := rfl

theorem errorResponse_eq (st : Status) : errorResponse st = Machine.errorBytes st.code := rfl

theorem okBytes_length (result : ByteString) (h : result.length ≤ 17) : (Machine.okBytes result).length = 18 := by
  simp [Machine.okBytes]; omega

@[simp] theorem errorBytes_length (code : Byte) : (Machine.errorBytes code).length = 18 := rfl

/-! ### Realignment -/

@[simp] theorem realign_length (raw : ByteString) : (realign raw).length = 17 := by
  simp [realign, frameLen]

theorem byteAt_realign (raw : ByteString) (i : Nat) (h : i < 17) : byteAt (realign raw) i = realignByte raw i :=
  byteAt_map_range _ _ _ h

@[simp] theorem oversample_length (f : ByteString) (pad : BitVec 13) : (oversample f pad).length = 18 := by
  simp [oversample, rawLen]

theorem byteAt_oversample (f : ByteString) (pad : BitVec 13) (i : Nat) (h : i < 18) :
    byteAt (oversample f pad) i = oversampleByte f pad i :=
  byteAt_map_range _ _ _ h

/-! ### Frames -/

/-- The 17 bytes of a built frame, written out (R31). -/
theorem buildFrame_eq (serial : Serial) (seq cmd opt : Byte) :
    buildFrame serial seq cmd opt =
      [0x53, 0x39, 0x14, 0xDD, 0x1C, 0x49, 0x34, 0x12, serial.extractLsb' 16 8, serial.extractLsb' 8 8,
        serial.extractLsb' 0 8, 0xFF, seq, cmd, opt,
        (crc16 (frameHead serial seq cmd opt)).extractLsb' 8 8,
        (crc16 (frameHead serial seq cmd opt)).extractLsb' 0 8] := rfl

@[simp] theorem buildFrame_length (serial : Serial) (seq cmd opt : Byte) :
    (buildFrame serial seq cmd opt).length = 17 := rfl

@[simp] theorem frameHead_length (serial : Serial) (seq cmd opt : Byte) :
    (frameHead serial seq cmd opt).length = 15 := rfl

theorem slice_buildFrame (serial : Serial) (seq cmd opt : Byte) :
    slice (buildFrame serial seq cmd opt) 0 crcSpan = frameHead serial seq cmd opt := rfl

/-! ### The two conditions and the receive checks -/

theorem recognised_iff (c : Byte) : recognised c = true ↔ 1 ≤ c.toNat ∧ c.toNat ≤ 6 := by
  rw [recognised, Bool.and_eq_true, decide_eq_true_eq, decide_eq_true_eq, nCmd]

theorem recognised_eq_false_iff (c : Byte) : recognised c = false ↔ ¬ (1 ≤ c.toNat ∧ c.toNat ≤ 6) := by
  rw [← recognised_iff, Bool.not_eq_true]

/-- A command byte is recognised iff it is the code of one of the six commands (R20, R62). -/
theorem recognised_iff_command (c : Byte) : recognised c = true ↔ ∃ m : Command, m.code = c := by
  constructor
  · intro h
    obtain ⟨h1, h2⟩ := (recognised_iff c).1 h
    have : c.toNat = 1 ∨ c.toNat = 2 ∨ c.toNat = 3 ∨ c.toNat = 4 ∨ c.toNat = 5 ∨ c.toNat = 6 := by omega
    rcases this with h | h | h | h | h | h
    · exact ⟨.onOff, BitVec.eq_of_toNat_eq (by rw [h]; rfl)⟩
    · exact ⟨.cooler, BitVec.eq_of_toNat_eq (by rw [h]; rfl)⟩
    · exact ⟨.warmer, BitVec.eq_of_toNat_eq (by rw [h]; rfl)⟩
    · exact ⟨.brighter, BitVec.eq_of_toNat_eq (by rw [h]; rfl)⟩
    · exact ⟨.dimmer, BitVec.eq_of_toNat_eq (by rw [h]; rfl)⟩
    · exact ⟨.reset, BitVec.eq_of_toNat_eq (by rw [h]; rfl)⟩
  · rintro ⟨m, rfl⟩; cases m <;> rfl

/-- The replay test on the distance of R105. -/
theorem stale_iff (l s : Byte) : stale l s = true ↔ (l.toNat + 256 - s.toNat) % 256 < 64 := by
  have := s.isLt
  rw [stale, decide_eq_true_eq, window, BitVec.toNat_sub]
  omega

theorem stale_eq_false_iff (l s : Byte) : stale l s = false ↔ 64 ≤ (l.toNat + 256 - s.toNat) % 256 := by
  rw [← Bool.not_eq_true, stale_iff]; omega

/-- An accepted number is stale at once. -/
@[simp] theorem stale_self (s : Byte) : stale s s = true := by
  simp [stale, window]

/-- Everything the receive checks can answer, in their order (R86, R122). -/
theorem readFrame_cases (f : ByteString) :
    (slice f 0 8 ≠ preamble ∧ readFrame f = .error .badPreamble) ∨
    (slice f 0 8 = preamble ∧ crc16 (slice f 0 crcSpan) ≠ be16 (byteAt f 15) (byteAt f 16) ∧
      readFrame f = .error .badChecksum) ∨
    (slice f 0 8 = preamble ∧ crc16 (slice f 0 crcSpan) = be16 (byteAt f 15) (byteAt f 16) ∧
      recognised (byteAt f 13) = false ∧ readFrame f = .error .badCommand) ∨
    (slice f 0 8 = preamble ∧ crc16 (slice f 0 crcSpan) = be16 (byteAt f 15) (byteAt f 16) ∧
      recognised (byteAt f 13) = true ∧ readFrame f = .ok (framePacket f)) := by
  unfold readFrame
  by_cases hp : slice f 0 8 = preamble
  · by_cases hc : crc16 (slice f 0 crcSpan) = be16 (byteAt f 15) (byteAt f 16)
    · cases hr : recognised (byteAt f 13) <;> simp [hp, hc]
    · simp [hp, hc]
  · simp [hp]

/-- A frame with the checksum right and its command recognised reads as the packet it was built from. -/
theorem readFrame_buildFrame (serial : Serial) (seq cmd opt : Byte) (h : recognised cmd = true) :
    readFrame (buildFrame serial seq cmd opt) =
      .ok { serial := serial, sequence := seq, command := cmd, options := opt } := by
  have hp : slice (buildFrame serial seq cmd opt) 0 8 = preamble := rfl
  have hc : crc16 (slice (buildFrame serial seq cmd opt) 0 crcSpan) =
      be16 (byteAt (buildFrame serial seq cmd opt) 15) (byteAt (buildFrame serial seq cmd opt) 16) :=
    (be16_extract _).symm
  have hr : recognised (byteAt (buildFrame serial seq cmd opt) 13) = true := h
  have hk : framePacket (buildFrame serial seq cmd opt) =
      { serial := serial, sequence := seq, command := cmd, options := opt } := by
    simp only [framePacket]
    congr 1
    exact be24_extract serial
  rcases readFrame_cases (buildFrame serial seq cmd opt) with h1 | h1 | h1 | h1
  · exact absurd hp h1.1
  · exact absurd hc h1.2.1
  · rw [hr] at h1; exact absurd h1.2.2.1 (by decide)
  · rw [h1.2.2.2, hk]

end Sys2Proof
end

