-- ==== Sys2Proof/Laws/Decode.lean ====
section
/-! SUPPORT. The opcode map has one row for each assigned opcode, and requests and words have 19 bytes. -/

namespace Sys2Proof

/-- No opcode selects two rows of the map: decoding is unambiguous (R60). -/
theorem opcodeMap_rows_disjoint :
    ∀ n : Fin 256, (opcodeMap.filter fun row => row.selects (BitVec.ofNat 8 n)).length ≤ 1 := by decide +kernel

/-- A string is no request iff it is not 19 bytes long. -/
theorem decode_eq_notARequest_iff (r : ByteString) : decode r = .error .notARequest ↔ r.length ≠ 19 := by
  unfold decode
  split
  next h => split <;> simp [show r.length = 19 from h]
  next h => exact ⟨fun _ => h, fun _ => rfl⟩

@[simp] theorem requestOfWord_length (nbits w : Nat) : (requestOfWord nbits w).length = 19 := by
  simp [requestOfWord, requestLen]

theorem zeroFill_length (n : Nat) (b : ByteString) (h : b.length ≤ n) : (zeroFill n b).length = n := by
  simp [zeroFill]; omega

/-- The operand bytes of a well-formed operation fit a request (R55, R56). -/
theorem operandBytes_length_le (i : Instr) (h : i.wellFormed = true) : i.operandBytes.length ≤ 18 := by
  cases i <;> simp_all [Instr.wellFormed, Instr.operandBytes, serialBytes, crcSpan, rawLen]

/-! ### What each opcode decodes to (R59) -/

theorem decode_of_row {r : ByteString} {row : OpcodeRow} (hl : r.length = 19)
    (h : opcodeMap.find? (fun row => row.selects (byteAt r 0)) = some row) : decode r = .ok (row.build r) := by
  rw [decode, if_pos (show r.length = requestLen from hl), h]

theorem decode_crc16 {r : ByteString} (hl : r.length = 19) (h : byteAt r 0 = 0x01) :
    decode r = .ok (.crc16 (reqData r)) :=
  decode_of_row hl (row := ⟨0x01, 0xFF, fun r => .crc16 (reqData r)⟩) (by rw [h]; rfl)

theorem decode_realign {r : ByteString} (hl : r.length = 19) (h : byteAt r 0 = 0x02) :
    decode r = .ok (.realign (reqRaw r)) :=
  decode_of_row hl (row := ⟨0x02, 0xFF, fun r => .realign (reqRaw r)⟩) (by rw [h]; rfl)

theorem decode_encode {r : ByteString} (hl : r.length = 19) (h : byteAt r 0 = 0x03) :
    decode r = .ok (.encode (reqSerial r) (reqSeq r) (reqCmd r) (reqOpt r)) :=
  decode_of_row hl (row := ⟨0x03, 0xFF, fun r => .encode (reqSerial r) (reqSeq r) (reqCmd r) (reqOpt r)⟩) (by rw [h]; rfl)

theorem decode_decode {r : ByteString} (hl : r.length = 19) (h : byteAt r 0 = 0x04) :
    decode r = .ok (.decode (reqRaw r)) :=
  decode_of_row hl (row := ⟨0x04, 0xFF, fun r => .decode (reqRaw r)⟩) (by rw [h]; rfl)

theorem decode_trackOut {r : ByteString} (hl : r.length = 19) (h : byteAt r 0 = 0x10) :
    decode r = .ok (.track .outgoing (reqSerial r)) := by
  rw [decode_of_row hl (row := ⟨0x10, 0xFE, fun r => .track (reqDir r) (reqSerial r)⟩) (by rw [h]; rfl)]
  simp [reqDir, h]

theorem decode_trackIn {r : ByteString} (hl : r.length = 19) (h : byteAt r 0 = 0x11) :
    decode r = .ok (.track .incoming (reqSerial r)) := by
  rw [decode_of_row hl (row := ⟨0x10, 0xFE, fun r => .track (reqDir r) (reqSerial r)⟩) (by rw [h]; rfl)]
  simp [reqDir, h]

theorem decode_seqNext {r : ByteString} (hl : r.length = 19) (h : byteAt r 0 = 0x12) :
    decode r = .ok (.seqNext (reqSerial r)) :=
  decode_of_row hl (row := ⟨0x12, 0xFF, fun r => .seqNext (reqSerial r)⟩) (by rw [h]; rfl)

theorem decode_seqCheck {r : ByteString} (hl : r.length = 19) (h : byteAt r 0 = 0x13) :
    decode r = .ok (.seqCheck (reqSerial r) (reqSeq r)) :=
  decode_of_row hl (row := ⟨0x13, 0xFF, fun r => .seqCheck (reqSerial r) (reqSeq r)⟩) (by rw [h]; rfl)

theorem decode_send {r : ByteString} (hl : r.length = 19) (h : byteAt r 0 = 0x20) :
    decode r = .ok (.send (reqSerial r) (reqCmd r) (reqOpt r)) :=
  decode_of_row hl (row := ⟨0x20, 0xFF, fun r => .send (reqSerial r) (reqCmd r) (reqOpt r)⟩) (by rw [h]; rfl)

theorem decode_recv {r : ByteString} (hl : r.length = 19) (h : byteAt r 0 = 0x21) :
    decode r = .ok (.recv (reqRaw r)) :=
  decode_of_row hl (row := ⟨0x21, 0xFF, fun r => .recv (reqRaw r)⟩) (by rw [h]; rfl)

end Sys2Proof
end

