-- ==== Sys2Proof/Laws/State.lean ====
section
/-! SUPPORT. What each update of the state does to each field, and to what is read through `entry` and `find`. -/

namespace Sys2Proof.Machine

/-! ### Fields -/

@[simp] theorem State.answer_nTrack (s : State) (r : ByteString) : (s.answer r).nTrack = s.nTrack := rfl
@[simp] theorem State.answer_tt (s : State) (r : ByteString) : (s.answer r).tt = s.tt := rfl
@[simp] theorem State.answer_requests (s : State) (r : ByteString) : (s.answer r).requests = s.requests.tail := rfl
@[simp] theorem State.answer_responses (s : State) (r : ByteString) :
    (s.answer r).responses = s.responses ++ [r] := rfl

@[simp] theorem State.writeEntry_nTrack (s : State) (k : Nat) (e : Entry) : (s.writeEntry k e).nTrack = s.nTrack := rfl
@[simp] theorem State.writeEntry_tt (s : State) (k : Nat) (e : Entry) :
    (s.writeEntry k e).tt = setEntry s.tt k e := rfl
@[simp] theorem State.writeEntry_requests (s : State) (k : Nat) (e : Entry) :
    (s.writeEntry k e).requests = s.requests := rfl
@[simp] theorem State.writeEntry_responses (s : State) (k : Nat) (e : Entry) :
    (s.writeEntry k e).responses = s.responses := rfl

@[simp] theorem State.writeLast_nTrack (s : State) (k : Nat) (v : Byte) : (s.writeLast k v).nTrack = s.nTrack := rfl
@[simp] theorem State.writeLast_tt (s : State) (k : Nat) (v : Byte) :
    (s.writeLast k v).tt = setEntry s.tt k { s.entry k with last := v } := rfl
@[simp] theorem State.writeLast_requests (s : State) (k : Nat) (v : Byte) :
    (s.writeLast k v).requests = s.requests := rfl
@[simp] theorem State.writeLast_responses (s : State) (k : Nat) (v : Byte) :
    (s.writeLast k v).responses = s.responses := rfl

@[simp] theorem State.issueFirst_nTrack (s : State) (r : ByteString) : (s.issueFirst r).nTrack = s.nTrack := rfl
@[simp] theorem State.issueFirst_tt (s : State) (r : ByteString) : (s.issueFirst r).tt = s.tt := rfl
@[simp] theorem State.issueFirst_requests (s : State) (r : ByteString) :
    (s.issueFirst r).requests = r :: s.requests := rfl
@[simp] theorem State.issueFirst_responses (s : State) (r : ByteString) : (s.issueFirst r).responses = s.responses := rfl

@[simp] theorem State.resetWith_nTrack (n : Nat) : (State.resetWith n).nTrack = n := rfl
@[simp] theorem State.resetWith_tt (n : Nat) : (State.resetWith n).tt = [] := rfl
@[simp] theorem State.resetWith_requests (n : Nat) : (State.resetWith n).requests = [] := rfl
@[simp] theorem State.resetWith_responses (n : Nat) : (State.resetWith n).responses = [] := rfl

@[simp] theorem State.fetch_cons (s : State) (r : ByteString) (rest : List ByteString) (h : s.requests = r :: rest) :
    s.fetch = some r := by
  simp [State.fetch, h]

/-! ### What a response leaves alone -/

@[simp] theorem State.answer_entry (s : State) (r : ByteString) (k : Nat) : (s.answer r).entry k = s.entry k := rfl
@[simp] theorem State.answer_find (s : State) (r : ByteString) (dir : Dir) (serial : Serial) :
    (s.answer r).find dir serial = s.find dir serial := rfl
@[simp] theorem State.answer_freeIndex (s : State) (r : ByteString) : (s.answer r).freeIndex = s.freeIndex := rfl
@[simp] theorem State.answer_readLast (s : State) (r : ByteString) (k : Nat) :
    (s.answer r).readLast k = s.readLast k := rfl
theorem State.answer_of_response_eq {s t : State} {r : ByteString} (h : t = s.answer r) :
    t.requests = s.requests.tail ∧ t.responses = s.responses ++ [r] := by
  subst h; exact ⟨rfl, rfl⟩

/-! ### Reading an entry after writing one -/

theorem entry_of_tt (s : State) (k : Nat) : s.entry k = s.tt.getD k Entry.free := rfl

@[simp] theorem State.entry_resetWith (n k : Nat) : (State.resetWith n).entry k = Entry.free := rfl

/-- Entries that are not listed are free. -/
theorem State.entry_eq_free_of_length_le (s : State) (k : Nat) (h : s.tt.length ≤ k) : s.entry k = Entry.free := by
  exact List.getD_eq_default _ _ h

theorem setEntry_length (tt : List Entry) (k : Nat) (e : Entry) :
    (setEntry tt k e).length = max tt.length (k + 1) := by
  unfold setEntry
  split
  · simp; omega
  · simp; omega

theorem getD_setEntry (tt : List Entry) (k j : Nat) (e : Entry) :
    (setEntry tt k e).getD j Entry.free = if j = k then e else tt.getD j Entry.free := by
  simp only [List.getD_eq_getElem?_getD, setEntry]
  split
  next h =>
    by_cases hj : j = k
    · subst hj; simp [h]
    · simp [hj, Ne.symm hj]
  next h =>
    rw [List.append_assoc]
    by_cases hl : j < tt.length
    · rw [List.getElem?_append_left hl, if_neg (by omega)]
    · rw [List.getElem?_append_right (by omega), List.getElem?_eq_none (l := tt) (by omega)]
      by_cases hj : j = k
      · subst hj
        rw [List.getElem?_append_right (by simp)]
        simp
      · rw [if_neg hj]
        by_cases hk : j < k
        · rw [List.getElem?_append_left (by simp; omega), List.getElem?_replicate, if_pos (by omega)]
          rfl
        · rw [List.getElem?_eq_none (by simp; omega)]

/-- A write is read back at its own index and nowhere else. -/
@[simp] theorem State.entry_writeEntry (s : State) (k j : Nat) (e : Entry) :
    (s.writeEntry k e).entry j = if j = k then e else s.entry j :=
  getD_setEntry s.tt k j e

@[simp] theorem State.entry_writeLast (s : State) (k j : Nat) (v : Byte) :
    (s.writeLast k v).entry j = if j = k then { s.entry k with last := v } else s.entry j :=
  State.entry_writeEntry s k j _

end Sys2Proof.Machine
end

