-- ==== Sys2Proof/Laws/Table.lean ====
section
/-! SUPPORT. One specification for each operation over the tracker table: `find`, `freeIndex`, `register`, `allocate`,
`accept`. Later proofs cite these and do not unfold the operations. -/

namespace Sys2Proof.Machine

theorem Entry.isKey_iff (dir : Dir) (serial : Serial) (e : Entry) :
    e.isKey dir serial = true ↔ e.valid = true ∧ e.dir = dir ∧ e.serial = serial := by
  simp [Entry.isKey, and_assoc]

theorem State.holds_iff_isKey (s : State) (k : Nat) (dir : Dir) (serial : Serial) :
    s.Holds k dir serial ↔ (s.entry k).isKey dir serial = true := by
  rw [Entry.isKey_iff, State.Holds]

/-- A valid entry is a listed one. -/
theorem State.lt_length_of_valid (s : State) (k : Nat) (h : (s.entry k).valid = true) : k < s.tt.length := by
  by_contra hk
  rw [s.entry_eq_free_of_length_le k (by omega)] at h
  cases h

theorem State.entry_eq_getElem (s : State) (k : Nat) (h : k < s.tt.length) : s.entry k = s.tt[k] := by
  simp [State.entry, List.getD_eq_getElem?_getD, h]

/-- `find` answers the first entry that holds the device. -/
theorem State.find_eq_some_iff (s : State) (dir : Dir) (serial : Serial) (k : Nat) :
    s.find dir serial = some k ↔ s.Holds k dir serial ∧ ∀ j, j < k → ¬ s.Holds j dir serial := by
  unfold State.find
  rw [List.findIdx?_eq_some_iff_getElem]
  constructor
  · rintro ⟨h, hk, hj⟩
    refine ⟨?_, fun j hjk => ?_⟩
    · rw [holds_iff_isKey, s.entry_eq_getElem k h]; exact hk
    · rw [holds_iff_isKey, s.entry_eq_getElem j (by omega)]; simpa using hj j hjk
  · rintro ⟨hk, hj⟩
    have h := s.lt_length_of_valid k hk.1
    refine ⟨h, ?_, fun j hjk => ?_⟩
    · rw [← s.entry_eq_getElem k h, ← holds_iff_isKey]; exact hk
    · have := hj j hjk
      rw [holds_iff_isKey, s.entry_eq_getElem j (by omega)] at this
      simpa using this

/-- `find` answers `none` iff no entry holds the device. -/
theorem State.find_eq_none_iff (s : State) (dir : Dir) (serial : Serial) :
    s.find dir serial = none ↔ ∀ k, ¬ s.Holds k dir serial := by
  constructor
  · intro h k hk
    have hl := s.lt_length_of_valid k hk.1
    rw [State.find, List.findIdx?_eq_none_iff] at h
    have := h (s.tt[k]) (List.getElem_mem hl)
    rw [holds_iff_isKey, s.entry_eq_getElem k hl] at hk
    simp [hk] at this
  · intro h
    rw [State.find, List.findIdx?_eq_none_iff]
    intro e he
    obtain ⟨k, hk, rfl⟩ := List.getElem_of_mem he
    have := h k
    rw [holds_iff_isKey, s.entry_eq_getElem k hk] at this
    simpa using this

theorem State.find_holds {s : State} {dir : Dir} {serial : Serial} {k : Nat} (h : s.find dir serial = some k) :
    s.Holds k dir serial :=
  ((s.find_eq_some_iff dir serial k).1 h).1

theorem State.exists_find_of_holds {s : State} {dir : Dir} {serial : Serial} {k : Nat} (h : s.Holds k dir serial) :
    ∃ j, s.find dir serial = some j := by
  cases hf : s.find dir serial with
  | some j => exact ⟨j, rfl⟩
  | none => exact absurd h ((s.find_eq_none_iff dir serial).1 hf k)

/-- `find` reads nothing but which entries hold the device. -/
theorem State.find_congr {s s' : State} {dir : Dir} {serial : Serial}
    (h : ∀ k, s.Holds k dir serial ↔ s'.Holds k dir serial) : s.find dir serial = s'.find dir serial := by
  apply Option.ext
  intro k
  simp only [State.find_eq_some_iff, h]

/-- `freeIndex` answers the lowest index whose entry is free, within the capacity or listed. -/
theorem State.freeIndex_eq_some {s : State} {k : Nat} (h : s.freeIndex = some k) :
    (s.entry k).valid = false ∧ (∀ j, j < k → (s.entry j).valid = true) ∧ k ≤ s.tt.length ∧
      (k < s.tt.length ∨ k < s.nTrack) := by
  unfold State.freeIndex at h
  split at h
  next k' hk' =>
    cases h
    obtain ⟨hl, hv, hj⟩ := List.findIdx?_eq_some_iff_getElem.1 hk'
    refine ⟨by simpa [s.entry_eq_getElem k hl] using hv, fun j hjk => ?_, by omega, .inl hl⟩
    simpa [s.entry_eq_getElem j (by omega)] using hj j hjk
  next hnone =>
    split at h
    next hlt =>
      cases h
      refine ⟨by rw [s.entry_eq_free_of_length_le _ le_rfl]; rfl, fun j hj => ?_, le_rfl, .inr hlt⟩
      rw [List.findIdx?_eq_none_iff] at hnone
      simpa [s.entry_eq_getElem j hj] using hnone _ (List.getElem_mem hj)
    next => cases h

/-- `freeIndex` answers `none` iff every entry is valid. -/
theorem State.freeIndex_eq_none {s : State} (h : s.freeIndex = none) :
    s.nTrack ≤ s.tt.length ∧ ∀ j, j < s.tt.length → (s.entry j).valid = true := by
  unfold State.freeIndex at h
  split at h
  next => cases h
  next hnone =>
    split at h
    next => cases h
    next hlt =>
      refine ⟨by omega, fun j hj => ?_⟩
      rw [List.findIdx?_eq_none_iff] at hnone
      simpa [s.entry_eq_getElem j hj] using hnone _ (List.getElem_mem hj)

/-- Everything TRACK's registration can do. -/
theorem State.register_cases (s : State) (dir : Dir) (serial : Serial) :
    (∃ k, s.find dir serial = some k ∧ s.register dir serial = .ok s) ∨
    (∃ k, s.find dir serial = none ∧ s.freeIndex = some k ∧
      s.register dir serial = .ok (s.writeEntry k (newEntry dir serial))) ∨
    (s.find dir serial = none ∧ s.freeIndex = none ∧ s.register dir serial = .error .registryFull) := by
  unfold State.register
  cases s.find dir serial <;> cases s.freeIndex <;> simp

/-- Everything the allocation of SEQ_NEXT and SEND can do. -/
theorem State.allocate_cases (s : State) (serial : Serial) :
    (s.find .outgoing serial = none ∧ s.allocate serial = .error .unknownSerial) ∨
    (∃ k, s.find .outgoing serial = some k ∧
      s.allocate serial = .ok ((s.entry k).last + 1, s.writeLast k ((s.entry k).last + 1))) := by
  unfold State.allocate State.readLast
  cases s.find .outgoing serial <;> simp

/-- Everything the acceptance test of SEQ_CHECK and RECV can do. -/
theorem State.accept_cases (s : State) (serial : Serial) (q : Byte) :
    (s.find .incoming serial = none ∧ s.accept serial q = .error .unknownSerial) ∨
    (∃ k, s.find .incoming serial = some k ∧ stale (s.entry k).last q = true ∧
      s.accept serial q = .error .staleSequence) ∨
    (∃ k, s.find .incoming serial = some k ∧ stale (s.entry k).last q = false ∧
      s.accept serial q = .ok (s.writeLast k q)) := by
  unfold State.accept State.readLast
  cases s.find .incoming serial with
  | none => simp
  | some k => cases h : stale (s.entry k).last q <;> simp [h]

/-- Writing `last` moves no key. -/
theorem State.holds_writeLast (s : State) (k j : Nat) (v : Byte) (dir : Dir) (serial : Serial) :
    (s.writeLast k v).Holds j dir serial ↔ s.Holds j dir serial := by
  unfold State.Holds
  rw [State.entry_writeLast]
  split
  next h => subst h; rfl
  next => rfl

theorem State.find_writeLast (s : State) (k : Nat) (v : Byte) (dir : Dir) (serial : Serial) :
    (s.writeLast k v).find dir serial = s.find dir serial :=
  State.find_congr fun j => s.holds_writeLast k j v dir serial

/-- What `writeLast` does, in the statements' words. -/
theorem State.lastWritten_writeLast (s : State) (k : Nat) (v : Byte) : s.LastWritten (s.writeLast k v) k v := by
  refine ⟨rfl, ?_, fun j hj => ?_⟩
  · rw [State.entry_writeLast, if_pos rfl]
  · rw [State.entry_writeLast, if_neg hj]

/-- A written `last` moves no key, whatever wrote it. -/
theorem State.find_of_lastWritten {s t : State} {k : Nat} {v : Byte} (h : s.LastWritten t k v) (dir : Dir)
    (serial : Serial) : t.find dir serial = s.find dir serial := by
  refine State.find_congr fun j => ?_
  unfold State.Holds
  by_cases hj : j = k
  · subst hj; rw [h.2.1]
  · rw [h.2.2 j hj]

/-- Registration over a free entry adds its own key and no other. -/
theorem State.holds_writeNew (s : State) (k j : Nat) (dir dir' : Dir) (serial serial' : Serial)
    (hk : (s.entry k).valid = false) :
    (s.writeEntry k (newEntry dir serial)).Holds j dir' serial' ↔
      s.Holds j dir' serial' ∨ (j = k ∧ dir = dir' ∧ serial = serial') := by
  unfold State.Holds
  rw [State.entry_writeEntry]
  split
  next h => subst h; simp [newEntry, hk]
  next h => simp [h]

end Sys2Proof.Machine
end

