-- ==== Sys2Proof/Laws/Exec.lean ====
section
/-! SUPPORT. What the meanings can do, said once: every operation raises a status, or completes over the same table, or
writes one `last`, or registers one device. -/

namespace Sys2Proof.Machine

/-- The statuses an operation of `Instr` can raise: every one but `OK` and `BadOp` (R141). -/
def Raised (st : Status) : Prop := st ≠ .ok ∧ st ≠ .badOp

/-- Everything an operation can do. -/
theorem exec_cases (i : Instr) (s : State) :
    (∃ st, Raised st ∧ exec i s = raise st s) ∨
    (∃ result, result.length ≤ 17 ∧ exec i s = finish (zeroFill resultLen result) s) ∨
    (∃ dir serial k v result, result.length ≤ 17 ∧ lookedUp i = some (dir, serial) ∧ s.find dir serial = some k ∧
      (match i with
        | .seqNext _ => dir = .outgoing
        | .send _ _ _ => dir = .outgoing
        | .seqCheck _ _ => dir = .incoming
        | .recv _ => dir = .incoming
        | _ => False) ∧
      exec i s = finish (zeroFill resultLen result) (s.writeLast k v)) ∨
    (∃ dir serial k, i = .track dir serial ∧ s.find dir serial = none ∧ s.freeIndex = some k ∧
      exec i s = finish resultN (s.writeEntry k (newEntry dir serial))) := by
  cases i with
  | crc16 data => exact .inr (.inl ⟨_, by simp, rfl⟩)
  | realign raw => exact .inr (.inl ⟨realign raw, by simp, rfl⟩)
  | encode serial seq cmd opt =>
    simp only [exec, execEncode]
    split
    · exact .inr (.inl ⟨buildFrame serial seq cmd opt, by simp, rfl⟩)
    · exact .inl ⟨.badCommand, by simp [Raised], rfl⟩
  | decode raw =>
    simp only [exec, execDecode]
    rcases readFrame_cases (realign raw) with h | h | h | h
    · rw [h.2]; exact .inl ⟨_, by simp [Raised], rfl⟩
    · rw [h.2.2]; exact .inl ⟨_, by simp [Raised], rfl⟩
    · rw [h.2.2.2]; exact .inl ⟨_, by simp [Raised], rfl⟩
    · rw [h.2.2.2]; exact .inr (.inl ⟨_, by simp, rfl⟩)
  | track dir serial =>
    simp only [exec, execTrack]
    rcases s.register_cases dir serial with ⟨k, _, h⟩ | ⟨k, hf, hk, h⟩ | ⟨_, _, h⟩
    · rw [h]; exact .inr (.inl ⟨[], by simp, rfl⟩)
    · rw [h]; exact .inr (.inr (.inr ⟨dir, serial, k, rfl, hf, hk, rfl⟩))
    · rw [h]; exact .inl ⟨_, by simp [Raised], rfl⟩
  | seqNext serial =>
    simp only [exec, execSeqNext]
    rcases s.allocate_cases serial with ⟨_, h⟩ | ⟨k, hk, h⟩
    · rw [h]; exact .inl ⟨_, by simp [Raised], rfl⟩
    · rw [h]; exact .inr (.inr (.inl ⟨_, _, k, _, _, by simp, rfl, hk, rfl, rfl⟩))
  | seqCheck serial seq =>
    simp only [exec, execSeqCheck]
    rcases s.accept_cases serial seq with ⟨_, h⟩ | ⟨k, _, _, h⟩ | ⟨k, hk, _, h⟩
    · rw [h]; exact .inl ⟨_, by simp [Raised], rfl⟩
    · rw [h]; exact .inl ⟨_, by simp [Raised], rfl⟩
    · rw [h]; exact .inr (.inr (.inl ⟨_, _, k, _, _, by simp, rfl, hk, rfl, rfl⟩))
  | send serial cmd opt =>
    simp only [exec, execSend]
    split
    · rcases s.allocate_cases serial with ⟨_, h⟩ | ⟨k, hk, h⟩
      · rw [h]; exact .inl ⟨_, by simp [Raised], rfl⟩
      · rw [h]
        exact .inr (.inr (.inl ⟨_, _, k, _, buildFrame serial _ cmd opt, by simp, rfl, hk, rfl, rfl⟩))
    · exact .inl ⟨.badCommand, by simp [Raised], rfl⟩
  | recv raw =>
    simp only [exec, execRecv]
    rcases readFrame_cases (realign raw) with h | h | h | h
    · rw [h.2]; exact .inl ⟨_, by simp [Raised], rfl⟩
    · rw [h.2.2]; exact .inl ⟨_, by simp [Raised], rfl⟩
    · rw [h.2.2.2]; exact .inl ⟨_, by simp [Raised], rfl⟩
    · rw [h.2.2.2]
      dsimp only
      rcases s.accept_cases (framePacket (realign raw)).serial (framePacket (realign raw)).sequence with
        ⟨_, h⟩ | ⟨k, _, _, h⟩ | ⟨k, hk, _, h⟩
      · rw [h]; exact .inl ⟨_, by simp [Raised], rfl⟩
      · rw [h]; exact .inl ⟨_, by simp [Raised], rfl⟩
      · rw [h]; exact .inr (.inr (.inl ⟨_, _, k, _, _, by simp, rfl, hk, rfl, rfl⟩))

/-- Everything a step can do: nothing when idle, an operation, `BadOp`, or the refusal of a string that is no
request. -/
theorem step_cases (s : State) :
    (s.requests = [] ∧ step s = .next s) ∨
    (∃ r rest i, s.requests = r :: rest ∧ decode r = .ok i ∧ step s = exec i s) ∨
    (∃ r rest, s.requests = r :: rest ∧ decode r = .error .badOp ∧ step s = raise .badOp s) ∨
    (∃ r rest, s.requests = r :: rest ∧ decode r = .error .notARequest ∧ step s = .refused .notARequest) := by
  unfold step State.fetch
  cases hr : s.requests with
  | nil => simp
  | cons r rest =>
    cases hd : decode r with
    | ok i => simp [hd]
    | error e => cases e <;> simp [hd, rejectRequest]

/-! ### Runs -/

theorem run_succ_of_step (M : Host.Core) {s t : M.State} (h : M.step s = .next t) (n : Nat) :
    M.run (n + 1) s = M.run n t := by
  simp only [Host.Core.run, h]

/-- A run that begins with a step to `t` is a run from `t`. -/
theorem run_succ_of_next {s t : State} (h : step s = .next t) (n : Nat) :
    Sys2Proof.core.run (n + 1) s = Sys2Proof.core.run n t :=
  run_succ_of_step Sys2Proof.core h n

end Sys2Proof.Machine
end

