-- ==== Sys2Proof/Laws/HostLoop.lean ====
section
/-! SUPPORT. What a turn of the host's driving loop can do, said once. -/

namespace Sys2Proof.HostSide

open Sys2Proof.Machine

@[simp] theorem Loop.settle_block (h : Loop) (i : Instr) (rsp : ByteString) (t : State) :
    (h.settle i rsp t).block = t := rfl
@[simp] theorem Loop.settle_burstLeft (h : Loop) (i : Instr) (rsp : ByteString) (t : State) :
    (h.settle i rsp t).burstLeft = transmitted i rsp := rfl
@[simp] theorem Loop.settle_onAir (h : Loop) (i : Instr) (rsp : ByteString) (t : State) :
    (h.settle i rsp t).onAir = h.onAir := rfl
@[simp] theorem Loop.settle_dispatches (h : Loop) (i : Instr) (rsp : ByteString) (t : State) :
    (h.settle i rsp t).dispatches = h.dispatches ++ (dispatched i rsp).toList := rfl
@[simp] theorem Loop.settle_log (h : Loop) (i : Instr) (rsp : ByteString) (t : State) :
    (h.settle i rsp t).log = h.log ++ (logged rsp).toList := rfl

/-- A request issued first is the one the next step performs. -/
theorem step_issueFirst_of_decode {r : ByteString} {i : Instr} (s : State) (hd : decode r = .ok i) :
    step (s.issueFirst r) = exec i (s.issueFirst r) := by
  rcases step_cases (s.issueFirst r) with h | ⟨r', rest, j, h, hd', hs⟩ | ⟨r', rest, h, hd', hs⟩ | ⟨r', rest, h, hd', hs⟩
  · cases h.1
  all_goals
    cases h
    rw [hd] at hd'
    cases hd'
  exact hs

/-- A request that is carried and answered: the host settles the response. -/
theorem Loop.request_of_exec {h : Loop} {i : Instr} {t : State} {rsp : ByteString} (hb : h.burstLeft = [])
    (hw : i.wellFormed = true) (hd : decode (encode i) = .ok i)
    (he : exec i (h.block.issueFirst (encode i)) = .next t) (hr : t.responses = h.block.responses ++ [rsp]) :
    h.request i = .next (h.settle i rsp t) := by
  simp only [Loop.request, hb, hw, and_self, if_true, Loop.serve, step_issueFirst_of_decode h.block hd, he, hr,
    List.getLastD_concat]

/-- While a burst is in progress a turn transmits or does nothing. -/
theorem Loop.turn_of_burst {h : Loop} {frame : ByteString} {rest : List ByteString} (hb : h.burstLeft = frame :: rest)
    (u : Turn) :
    h.turn u = .next (if u.isTransmit then { h with burstLeft := rest, onAir := h.onAir ++ [frame] } else h) := by
  match u with
  | .poll none => rfl
  | .poll (some raw) => simp [Loop.turn, Loop.request, hb, Turn.isTransmit]
  | .call i => simp [Loop.turn, Loop.request, hb, Turn.isTransmit]
  | .transmit => simp [Loop.turn, hb, Turn.isTransmit]

/-- A run of turns that begins with a turn to `h'` goes on from `h'`. -/
theorem Loop.turns_cons_of_next {h h' : Loop} {u : Turn} (hu : h.turn u = .next h') (us : List Turn) :
    h.turns (u :: us) = h'.turns us := by
  rw [Loop.turns, hu]

end Sys2Proof.HostSide
end

