-- ==== Sys2Proof/Laws/PerInstr.lean ====
section
/-! SUPPORT. Statements about every operation, made per constructor. -/

namespace Sys2Proof.Laws

/-- The request of a well-formed operation is 19 bytes long and its first byte is the operation's opcode (R55). -/
def EncodedShape.Statement (i : Instr) : Prop :=
  i.wellFormed = true → (encode i).length = 19 ∧ byteAt (encode i) 0 = i.opcode

theorem encodedShape (i : Instr) : EncodedShape.Statement i := fun h =>
  ⟨zeroFill_length _ _ (Nat.succ_le_succ (operandBytes_length_le i h)), rfl⟩

theorem EncodedShape.crc16 (data : ByteString) : EncodedShape.Statement (.crc16 data) := encodedShape _
theorem EncodedShape.realign (raw : ByteString) : EncodedShape.Statement (.realign raw) := encodedShape _
theorem EncodedShape.encode (serial : Serial) (seq cmd opt : Byte) :
    EncodedShape.Statement (.encode serial seq cmd opt) := encodedShape _
theorem EncodedShape.decode (raw : ByteString) : EncodedShape.Statement (.decode raw) := encodedShape _
theorem EncodedShape.track (dir : Dir) (serial : Serial) : EncodedShape.Statement (.track dir serial) :=
  encodedShape _
theorem EncodedShape.seqNext (serial : Serial) : EncodedShape.Statement (.seqNext serial) := encodedShape _
theorem EncodedShape.seqCheck (serial : Serial) (seq : Byte) : EncodedShape.Statement (.seqCheck serial seq) :=
  encodedShape _
theorem EncodedShape.send (serial : Serial) (cmd opt : Byte) : EncodedShape.Statement (.send serial cmd opt) :=
  encodedShape _
theorem EncodedShape.recv (raw : ByteString) : EncodedShape.Statement (.recv raw) := encodedShape _

end Sys2Proof.Laws
end

