-- ==== Sys2Proof/Tests/Slice0.lean ====
section
/-! SUPPORT. The model's own tests. Expected values are the spec's: rows and programs of 95_test_vectors.md and the
examples of the rules, named at each test. The theorems whose names begin test_meets show, for each statement with
hypotheses, a concrete state and operands that meet them. -/

namespace Sys2Proof.Tests

open Sys2Proof.Machine

/-! ### Helpers -/

/-- A state with `n` entries, a table and pending requests. -/
def machine (n : Nat) (tt : List Entry) (requests : List ByteString := []) : State :=
  { State.resetWith n with tt := tt, requests := requests }

def outEntry (serial : Serial) (last : Byte) : Entry := { valid := true, dir := .outgoing, serial := serial, last := last }

def inEntry (serial : Serial) (last : Byte) : Entry := { valid := true, dir := .incoming, serial := serial, last := last }

/-- A request whose last bytes are zeros. -/
def request (front : ByteString) : ByteString := zeroFill 19 front

def isNext : Result → Bool
  | .next _ => true
  | .fault _ => false
  | .refused _ => false

/-- The state after a step that gives one. -/
def after : Result → State
  | .next t => t
  | .fault _ => State.resetWith 0
  | .refused _ => State.resetWith 0

theorem eq_next_after {r : Result} (h : isNext r = true) : r = .next (after r) := by
  cases r <;> simp_all [isNext, after]

/-- The table and the responses after one operation. -/
def ran (i : Instr) (s : State) : List Entry × List ByteString := ((after (exec i s)).tt, (after (exec i s)).responses)

/-- The raw buffer of the scenario frame (V-D1). -/
def rawScenario : ByteString :=
  [0x67, 0x22, 0x9B, 0xA3, 0x89, 0x26, 0x82, 0x55, 0x79, 0xBD, 0xFF, 0xE0, 0x20, 0x20, 0x0F, 0x71, 0x80, 0x00]

/-- The same frame with other filler bits (V-D2). -/
def rawScenarioPadded : ByteString :=
  [0x67, 0x22, 0x9B, 0xA3, 0x89, 0x26, 0x82, 0x55, 0x79, 0xBD, 0xFF, 0xE0, 0x20, 0x20, 0x0F, 0x71, 0x9F, 0xFF]

/-- The scenario frame (E1, 3.3 row 1). -/
def frameScenario : ByteString :=
  [0x53, 0x39, 0x14, 0xDD, 0x1C, 0x49, 0x34, 0x12, 0xAB, 0xCD, 0xEF, 0xFF, 0x01, 0x01, 0x00, 0x7B, 0x8C]

/-- Byte 7 changed (V-D3). -/
def rawBadPreamble : ByteString :=
  [0x67, 0x22, 0x9B, 0xA3, 0x89, 0x26, 0x82, 0x75, 0x79, 0xBD, 0xFF, 0xE0, 0x20, 0x20, 0x0F, 0x71, 0x80, 0x00]

/-- Byte 12 changed (V-D4). -/
def rawBadChecksum : ByteString :=
  [0x67, 0x22, 0x9B, 0xA3, 0x89, 0x26, 0x82, 0x55, 0x79, 0xBD, 0xFF, 0xE0, 0x40, 0x20, 0x0F, 0x71, 0x80, 0x00]

/-- Command 0 with its right checksum (V-D9). -/
def rawBadCommand : ByteString :=
  [0x67, 0x22, 0x9B, 0xA3, 0x89, 0x26, 0x82, 0x55, 0x79, 0xBD, 0xFF, 0xE0, 0x20, 0x00, 0x09, 0x17, 0xA0, 0x00]

/-- Command 7 with its right checksum (V-D10). -/
def rawCommandSeven : ByteString :=
  [0x67, 0x22, 0x9B, 0xA3, 0x89, 0x26, 0x82, 0x55, 0x79, 0xBD, 0xFF, 0xE0, 0x20, 0xE0, 0x1A, 0x25, 0x40, 0x00]

/-- Separator 00 with its right checksum (V-D12). -/
def rawSeparatorZero : ByteString :=
  [0x67, 0x22, 0x9B, 0xA3, 0x89, 0x26, 0x82, 0x55, 0x79, 0xBD, 0xE0, 0x00, 0x20, 0x20, 0x06, 0x05, 0xE0, 0x00]

/-- The packet the scenario frame carries, as a response (3.4, operation level). -/
def packetScenario : ByteString := 0x00 :: zeroFill 17 [0xAB, 0xCD, 0xEF, 0x01, 0x01, 0x00]

/-! ### Well-formed operations: each check refuses an ill-formed term -/

theorem test_wellFormed_refuses_crc16_of_14_bytes : (Instr.crc16 (List.replicate 14 0)).wellFormed = false := by decide
theorem test_wellFormed_refuses_realign_of_17_bytes : (Instr.realign (List.replicate 17 0)).wellFormed = false := by decide
theorem test_wellFormed_refuses_decode_of_19_bytes : (Instr.decode (List.replicate 19 0)).wellFormed = false := by decide
theorem test_wellFormed_refuses_recv_of_no_bytes : (Instr.recv []).wellFormed = false := by decide
theorem test_wellFormed_accepts :
    (Instr.crc16 (List.replicate 15 0)).wellFormed = true ∧ (Instr.recv rawScenario).wellFormed = true ∧
      (Instr.send 0 0x07 0).wellFormed = true := by decide

/-! ### Decoding: every opcode from a request written out byte by byte (R56, R59; the requests of section 3 and 4) -/

theorem test_decode_crc16 :
    decode [0x01, 0x53, 0x39, 0x14, 0xDD, 0x1C, 0x49, 0x34, 0x12, 0xAB, 0xCD, 0xEF, 0xFF, 0x01, 0x01, 0x00, 0xAA, 0xBB, 0xCC]
      = .ok (.crc16 [0x53, 0x39, 0x14, 0xDD, 0x1C, 0x49, 0x34, 0x12, 0xAB, 0xCD, 0xEF, 0xFF, 0x01, 0x01, 0x00]) := by
  rfl
theorem test_decode_realign : decode (0x02 :: rawScenario) = .ok (.realign rawScenario) := by rfl
theorem test_decode_encode :
    decode [0x03, 0xAB, 0xCD, 0xEF, 0x12, 0x34, 0x56, 0xFF, 0, 0, 0, 0, 0, 0, 0, 0, 0, 0, 0xFF]
      = .ok (.encode 0xABCDEF 0x12 0x34 0x56) := by rfl
theorem test_decode_decode : decode (0x04 :: rawScenario) = .ok (.decode rawScenario) := by rfl
theorem test_decode_track_out :
    decode [0x10, 0xAB, 0xCD, 0xEF, 0, 0, 0, 0, 0, 0, 0, 0, 0, 0, 0, 0, 0, 0, 0] = .ok (.track .outgoing 0xABCDEF) := by rfl
theorem test_decode_track_in :
    decode [0x11, 0x00, 0xA1, 0xB2, 0, 0, 0, 0, 0, 0, 0, 0, 0, 0, 0, 0, 0, 0, 0] = .ok (.track .incoming 0x00A1B2) := by rfl
theorem test_decode_seqNext :
    decode [0x12, 0x12, 0x34, 0x56, 0, 0, 0, 0, 0, 0, 0, 0, 0, 0, 0, 0, 0, 0, 0] = .ok (.seqNext 0x123456) := by rfl
theorem test_decode_seqCheck :
    decode [0x13, 0x00, 0xA1, 0xB2, 0xC2, 0, 0, 0, 0, 0, 0, 0, 0, 0, 0, 0, 0, 0, 0] = .ok (.seqCheck 0x00A1B2 194) := by rfl
theorem test_decode_send :
    decode [0x20, 0xAB, 0xCD, 0xEF, 0x99, 0x04, 0x01, 0, 0, 0, 0, 0, 0, 0, 0, 0, 0, 0, 0] = .ok (.send 0xABCDEF 4 1) := by rfl
theorem test_decode_recv : decode (0x21 :: rawScenario) = .ok (.recv rawScenario) := by rfl

/-- 3.9: unassigned opcodes, with the nearest assigned neighbours in the tests above. -/
theorem test_decode_badOp :
    [0x00, 0x05, 0x0F, 0x14, 0x1F, 0x22, 0xFF].map (fun op => decode (request [op])) =
      List.replicate 7 (.error .badOp) := by rfl
theorem test_decode_not_a_request :
    decode (List.replicate 18 0x02) = .error .notARequest ∧ decode (List.replicate 20 0x02) = .error .notARequest ∧
      decode [] = .error .notARequest := ⟨rfl, rfl, rfl⟩
/-- The encoder writes the requests of P1 steps 1 and 6. -/
theorem test_encode :
    encode (.track .outgoing 0xABCDEF) = [0x10, 0xAB, 0xCD, 0xEF, 0, 0, 0, 0, 0, 0, 0, 0, 0, 0, 0, 0, 0, 0, 0] ∧
      encode (.send 0xABCDEF 0x04 0x01) = [0x20, 0xAB, 0xCD, 0xEF, 0, 0x04, 0x01, 0, 0, 0, 0, 0, 0, 0, 0, 0, 0, 0, 0] := by
  decide
/-- Bit 8 of a table word is bit 0 of `REQ[1]`. -/
theorem test_decodeTableWord :
    decodeTableWord 32 0xEFCDAB12 = some (.seqNext 0xABCDEF) ∧ decodeTableWord 8 0x11 = some (.track .incoming 0) ∧
      decodeTableWord 8 0x14 = none := by decide

/-! ### Operations: responses and tables of 95_test_vectors.md -/

/-- 3.1, operation level. -/
theorem test_crc16 : (ran (.crc16 (frameScenario.take 15)) (machine 2 [])).2 = [0x00 :: zeroFill 17 [0x7B, 0x8C]] := by
  decide +kernel
/-- 3.1, the control: the initial value `0xFFFF` would give `29B1`. -/
theorem test_crc16_initial_value : crc16 [0x31, 0x32, 0x33, 0x34, 0x35, 0x36, 0x37, 0x38, 0x39] = 0x6E62 := by decide +kernel
/-- 3.2 row 3. -/
theorem test_realign :
    realign [0x12, 0x34, 0x56, 0x78, 0x9A, 0xBC, 0xDE, 0xF0, 0x0F, 0x1E, 0x2D, 0x3C, 0x4B, 0x5A, 0x69, 0x78, 0x87, 0x96]
      = [0x50, 0x91, 0xA2, 0xB3, 0xC4, 0xD5, 0xE6, 0xF7, 0x80, 0x78, 0xF1, 0x69, 0xE2, 0x5A, 0xD3, 0x4B, 0xC4] := by
  decide +kernel
/-- 3.2, operation level. -/
theorem test_realign_response : (ran (.realign rawScenario) (machine 2 [])).2 = [0x00 :: frameScenario] := by decide +kernel
/-- 3.3 row 3, and its raw buffer. -/
theorem test_encode_frame :
    (ran (.encode 0xFFFFFF 0xFF 0x06 0xFF) (machine 2 [])).2 =
      [[0x00, 0x53, 0x39, 0x14, 0xDD, 0x1C, 0x49, 0x34, 0x12, 0xFF, 0xFF, 0xFF, 0xFF, 0xFF, 0x06, 0xFF, 0x8F, 0x7F]] := by
  decide +kernel
/-- 3.3, command 7 and command 0. -/
theorem test_encode_refuses_commands :
    (ran (.encode 0xABCDEF 1 7 0) (machine 2 [])).2 = [0x03 :: List.replicate 17 0] ∧
      (ran (.encode 0xABCDEF 1 0 0) (machine 2 [])).2 = [0x03 :: List.replicate 17 0] := by decide +kernel
/-- 3.4: V-D1, V-D2, V-D12. -/
theorem test_decode_accepts :
    [rawScenario, rawScenarioPadded, rawSeparatorZero].map (fun raw => (ran (.decode raw) (machine 2 [])).2) =
      List.replicate 3 [packetScenario] := by decide +kernel
/-- 3.4: V-D3, V-D4, V-D9, V-D10, V-D13, V-D14. -/
theorem test_decode_rejects :
    [rawBadPreamble, rawBadChecksum, rawBadCommand, rawCommandSeven, List.replicate 18 0x00, List.replicate 18 0xFF].map
        (fun raw => (ran (.decode raw) (machine 2 [])).2) =
      [1, 2, 3, 3, 1, 1].map (fun code => [code :: List.replicate 17 (0 : Byte)]) := by decide +kernel
/-- 3.6 step 6. -/
theorem test_track_registers :
    ran (.track .incoming 0x000005) (machine 2 [outEntry 0x000005 1]) =
      ([outEntry 0x000005 1, inEntry 0x000005 0], [List.replicate 18 0]) := by decide
/-- 3.6 steps 7 and 8. -/
theorem test_track_full_and_present :
    ran (.track .incoming 0x000006) (machine 2 [outEntry 0x000005 1, inEntry 0x000005 0]) =
        ([outEntry 0x000005 1, inEntry 0x000005 0], [0x06 :: List.replicate 17 0]) ∧
      ran (.track .outgoing 0x000005) (machine 2 [outEntry 0x000005 1, inEntry 0x000005 0]) =
        ([outEntry 0x000005 1, inEntry 0x000005 0], [List.replicate 18 0]) := by decide
/-- 3.6 step 10: the wrap. -/
theorem test_seqNext_wraps :
    ran (.seqNext 0x000005) (machine 2 [outEntry 0x000005 255, inEntry 0x000005 0]) =
      ([outEntry 0x000005 0, inEntry 0x000005 0], [0x00 :: zeroFill 17 [0x00, 0x00, 0x05, 0x00]]) := by decide
/-- 3.6: an `IN` entry is invisible to SEQ_NEXT (R107). -/
theorem test_seqNext_unknown :
    ran (.seqNext 0x000005) (machine 2 [inEntry 0x000005 9]) = ([inEntry 0x000005 9], [0x04 :: List.replicate 17 0]) := by
  decide
/-- 3.7: `L = 2` with 2, 0, 255, 195, 194, 3 (the row 255 is 90_conflicts.md C2). -/
theorem test_seqCheck_window :
    [2, 0, 255, 195, 194, 3].map (fun q => (ran (.seqCheck 0x00A1B2 q) (machine 2 [inEntry 0x00A1B2 2])).1) =
      [2, 2, 2, 2, 194, 3].map (fun l => [inEntry 0x00A1B2 l]) := by decide
/-- P3 step 6. -/
theorem test_seqCheck_response :
    (ran (.seqCheck 0x00A1B2 194) (machine 2 [inEntry 0x00A1B2 2])).2 =
      [0x00 :: zeroFill 17 [0x00, 0xA1, 0xB2, 0xC2]] := by decide
/-- P1 step 3. -/
theorem test_send :
    ran (.send 0xABCDEF 0x01 0x00) (machine 4 [outEntry 0xABCDEF 1]) =
      ([outEntry 0xABCDEF 2],
        [[0x00, 0x53, 0x39, 0x14, 0xDD, 0x1C, 0x49, 0x34, 0x12, 0xAB, 0xCD, 0xEF, 0xFF, 0x02, 0x01, 0x00, 0x22, 0xDC]]) := by
  decide +kernel
/-- P1 steps 4 and 5: the counter is not advanced. -/
theorem test_send_refuses :
    ran (.send 0x123456 0x01 0x00) (machine 4 [outEntry 0xABCDEF 2]) =
        ([outEntry 0xABCDEF 2], [0x04 :: List.replicate 17 0]) ∧
      ran (.send 0xABCDEF 0x07 0x00) (machine 4 [outEntry 0xABCDEF 2]) =
        ([outEntry 0xABCDEF 2], [0x03 :: List.replicate 17 0]) := by decide +kernel
/-- P2 steps 2 and 3. -/
theorem test_recv :
    ran (.recv rawScenario) (machine 4 [inEntry 0xABCDEF 0]) = ([inEntry 0xABCDEF 1], [packetScenario]) ∧
      ran (.recv rawScenarioPadded) (machine 4 [inEntry 0xABCDEF 1]) =
        ([inEntry 0xABCDEF 1], [0x05 :: List.replicate 17 0]) := by decide +kernel
/-- 3.8, P2 steps 4 and 8: the order of the checks. -/
theorem test_recv_refuses :
    [rawBadCommand,
      [0x67, 0x22, 0x9B, 0xA3, 0x89, 0x26, 0x82, 0x42, 0x46, 0x8A, 0xDF, 0xE0, 0x20, 0x20, 0x1F, 0xA5, 0x00, 0x00],
      List.replicate 18 0x00, rawBadChecksum].map (fun raw => ran (.recv raw) (machine 4 [inEntry 0xABCDEF 1])) =
      [3, 4, 1, 2].map (fun code => ([inEntry 0xABCDEF 1], [code :: List.replicate 17 (0 : Byte)])) := by decide +kernel
/-- 3.9, and the boundary of R60. -/
theorem test_step_badOp :
    (after (step (machine 2 [] [request [0x05, 0xFF]]))).responses = [0x07 :: List.replicate 17 0] ∧
      step (machine 2 [] [[0x01]]) = .refused .notARequest := ⟨by decide, rfl⟩
/-- The host interface: the word of TRACK runs as the next step. -/
theorem test_withFetchWord :
    (after (step ((machine 2 []).withFetchWord 32 0xEFCDAB11))).tt = [inEntry 0xABCDEF 0] := by decide
/-- 2 and 3.3 rows 1 and 7: `oversample`. -/
theorem test_oversample :
    oversample frameScenario 0 = rawScenario ∧ oversample frameScenario 0x1FFF = rawScenarioPadded := by decide +kernel
/-- 3.10, and P4: the amounts, and the SENDs of `SET_BRIGHTNESS 0x123456, 10` (R132). -/
theorem test_host_sequences :
    [153, 160, 161, 200, 250, 261, 262, 300, 362, 363, 370, 152, 371].map HostSide.colorTempAmount =
        [some 15, some 15, some 14, some 12, some 8, some 8, some 7, some 5, some 1, some 0, some 0, none, none] ∧
      HostSide.setBrightness 0x123456 10 = [.send 0x123456 0x05 0xF0, .send 0x123456 0x04 0x0A] := by decide

/-- P2 steps 2 and 3: what the host dispatches. -/
theorem test_host_dispatches :
    HostSide.dispatched (.recv rawScenario) packetScenario = some (0xABCDEF, 0x01, 0x00) ∧
      HostSide.dispatched (.recv rawScenario) (errorBytes 0x05) = none := by decide

/-- The loop after some turns, from an idle one around a block. -/
def afterTurns (s : State) (us : List HostSide.Turn) : HostSide.Loop :=
  match (HostSide.Loop.start s).turns us with
  | .next h => h
  | .fault _ => HostSide.Loop.start (State.resetWith 0)
  | .refused _ => HostSide.Loop.start (State.resetWith 0)

/-- P2 steps 2, 3 and 8 as polls (R131): one dispatch, the duplicate logged, the noise silent. -/
theorem test_host_polls :
    afterTurns (machine 4 [inEntry 0xABCDEF 0])
        [.poll (some rawScenario), .poll none, .poll (some rawScenarioPadded), .poll (some (List.replicate 18 0))] =
      { HostSide.Loop.start
          { machine 4 [inEntry 0xABCDEF 1] with
            responses := [packetScenario, errorBytes 0x05, errorBytes 0x01] } with
        dispatches := [(0xABCDEF, 0x01, 0x00)]
        log := [.staleSequence] } := by decide +kernel

/-- R130, R131: a poll during a burst issues no RECV, and the burst has 20 frames, all the same. -/
theorem test_host_burst :
    afterTurns (machine 2 [outEntry 0xABCDEF 0, inEntry 0xABCDEF 0]) (.call (.send 0xABCDEF 1 0) :: .poll (some rawScenario) :: List.replicate 21 .transmit) =
      { HostSide.Loop.start
          { machine 2 [outEntry 0xABCDEF 1, inEntry 0xABCDEF 0] with responses := [0x00 :: frameScenario] } with
        onAir := List.replicate 20 frameScenario } := by decide +kernel

/-! ### Hypotheses that something meets -/

/-- A full table of two entries, one serial in both directions, with a SEND and a RECV pending. -/
def busy : State :=
  machine 2 [outEntry 0xABCDEF 7, inEntry 0xABCDEF 0] [encode (.send 0xABCDEF 1 0), encode (.recv rawScenario)]

/-- The same map as `busy`, in the other order. -/
def busySwapped : State := { busy with tt := [inEntry 0xABCDEF 0, outEntry 0xABCDEF 7] }

theorem test_meets_StepRunsTheDecodedRequest :
    busy.requests = encode (.send 0xABCDEF 1 0) :: [encode (.recv rawScenario)] ∧
      decode (encode (.send 0xABCDEF 1 0)) = .ok (.send 0xABCDEF 1 0) := ⟨rfl, by rfl⟩

theorem test_meets_IdleStepChangesNothing : (machine 2 [outEntry 5 1]).requests = [] := rfl

/-- Each clause at the ends of its range of opcodes or lengths. -/
theorem test_meets_RequestDecodingIsTotal :
    (∀ op ∈ assignedOpcodes, (request [op]).length = 19 ∧ byteAt (request [op]) 0 = op) ∧
    (∀ op ∈ [0x00, 0x05, 0x0F, 0x14, 0x1F, 0x22, 0xFF],
      (request [op]).length = 19 ∧ byteAt (request [op]) 0 ∉ assignedOpcodes) ∧
    (List.replicate 18 (0x01 : Byte)).length ≠ 19 ∧ (List.replicate 20 (0x01 : Byte)).length ≠ 19 ∧
    (machine 1 [] [request [0x21]]).requests = request [0x21] :: [] := by decide

/-- Byte 4 of a SEND and the last byte of a CRC16 are not used. -/
theorem test_meets_UnusedRequestBytesAreIgnored :
    (∀ k ∈ usedBytes 0x20, byteAt (request [0x20, 1, 2, 3, 0xFF, 5, 6]) k = byteAt (request [0x20, 1, 2, 3, 0, 5, 6, 9]) k) ∧
    (request [0x20, 1, 2, 3, 0xFF, 5, 6]).length = 19 ∧ (request [0x20, 1, 2, 3, 0, 5, 6, 9]).length = 19 := by decide

theorem test_meets_DecodeOfEncodeIsTheOperation :
    (Instr.recv rawScenario).wellFormed = true ∧ (Instr.encode 0xABCDEF 1 0xFF 0).wellFormed = true := by decide

theorem test_meets_EncodeOfDecodeKeepsUsedBytes :
    decode (request [0x13, 0x00, 0xA1, 0xB2, 0xC3, 0x77]) = .ok (.seqCheck 0x00A1B2 0xC3) := by rfl

theorem test_meets_ErrorWritesNothing :
    ∃ t : State, step (machine 2 [inEntry 5 1] [encode (.seqCheck 5 1)]) = .next t ∧
      t.responses = (machine 2 [inEntry 5 1]).responses ++ [errorBytes 0x05] ∧ byteAt (errorBytes 0x05) 0 ≠ 0x00 :=
  ⟨_, eq_next_after (by decide), by decide, by decide⟩

theorem test_meets_RunAnswersEveryRequest : busy.Safe := by unfold State.Safe; decide

theorem test_meets_ResponseDependsOnRequestAndTableOnly :
    busy.nTrack = { busy with responses := [[0x07]] }.nTrack ∧ busy.tt = { busy with responses := [[0x07]] }.tt ∧
      busy.requests.head? = some (encode (.send 0xABCDEF 1 0)) ∧ step busy = .next (after (step busy)) :=
  ⟨rfl, rfl, rfl, eq_next_after (by decide +kernel)⟩

theorem busy_holds_iff (k : Nat) (dir : Dir) (serial : Serial) :
    busy.Holds k dir serial ↔ serial = 0xABCDEF ∧ k = (match dir with | .outgoing => 0 | .incoming => 1) := by
  match k with
  | 0 => cases dir <;> simp [State.Holds, State.entry, busy, machine, outEntry, inEntry, eq_comm]
  | 1 => cases dir <;> simp [State.Holds, State.entry, busy, machine, outEntry, inEntry, eq_comm]
  | k + 2 => cases dir <;> simp [State.Holds, State.entry, busy, machine, Entry.free]

/-- A full table: the invariant, at its boundary `tt.length = nTrack`, and a step that completes. -/
theorem test_meets_StepKeepsTheTableInvariant : busy.Inv ∧ step busy = .next (after (step busy)) := by
  refine ⟨⟨by decide, by decide, ?_, by decide⟩, eq_next_after (by decide +kernel)⟩
  intro j k dir serial hj hk
  rw [busy_holds_iff] at hj hk
  rw [hj.2, hk.2]

theorem test_meets_StepKeepsKeysUnique : busy.KeysUnique ∧ step busy = .next (after (step busy)) :=
  ⟨test_meets_StepKeepsTheTableInvariant.1.keysUnique, test_meets_StepKeepsTheTableInvariant.2⟩

theorem test_meets_FindIsTheMatchingEntry : busy.KeysUnique := test_meets_StepKeepsKeysUnique.1

/-- Also where `last` differs: SEQ_NEXT moves entry 0. -/
theorem test_meets_EntriesPersist :
    ∃ t : State, exec (.seqNext 0xABCDEF) busy = .next t ∧ (busy.entry 0).valid = true ∧
      (t.entry 0).last ≠ (busy.entry 0).last :=
  ⟨_, eq_next_after (by decide), by decide, by decide⟩

theorem test_meets_OtherDevicesAreUntouched :
    ∃ t : State, exec (.seqNext 0xABCDEF) busy = .next t ∧ lookedUp (.seqNext 0xABCDEF) ≠ some (.incoming, 0xABCDEF) :=
  ⟨_, eq_next_after (by decide), by decide⟩

theorem test_meets_TableIsAFiniteMap :
    busy.SameMap busySwapped ∧ busy.requests = busySwapped.requests ∧ busy.responses = busySwapped.responses ∧
      step busy = .next (after (step busy)) := by
  refine ⟨⟨fun dir serial => ?_, by decide⟩, rfl, rfl, eq_next_after (by decide +kernel)⟩
  cases dir <;> by_cases h : (0xABCDEF : Serial) = serial <;>
    simp [State.lastOf, State.find, busySwapped, busy, machine, List.findIdx?_cons, Entry.isKey, outEntry, inEntry,
      State.readLast, State.entry, h]

/-- Two tables that differ in a listed free entry, with a TRACK pending that takes it. -/
theorem test_meets_FreeEntryFieldsAreUnobservable :
    (machine 2 [Entry.free] [encode (.track .incoming 5)]).SameUsed
      (machine 2 [{ Entry.free with serial := 9, last := 9 }] [encode (.track .incoming 5)]) ∧
    isNext (step (machine 2 [Entry.free] [encode (.track .incoming 5)])) = true := by
  refine ⟨⟨rfl, by decide, by decide, fun k => ?_⟩, by decide⟩
  match k with
  | 0 => decide
  | k + 1 => simp [State.entry, machine]

theorem test_meets_ChecksumIsLinear : ([0x01, 0x02] : ByteString).length = ([0xFF, 0x00] : ByteString).length := rfl

/-- The first and the last bit. -/
theorem test_meets_SingleBitChangeMovesTheChecksum :
    0 < 8 * frameScenario.length ∧ 135 < 8 * frameScenario.length ∧ flipStreamBit [0x53] 0 = [0xD3] ∧
      flipStreamBit [0x53, 0x00] 15 = [0x53, 0x01] := by decide

/-- The opcode clauses of the nine operation statements: a request of each opcode. -/
theorem test_meets_encoding_clauses :
    ∀ op ∈ assignedOpcodes, (request [op, 0xAB, 0xCD, 0xEF]).length = 19 ∧ byteAt (request [op, 0xAB, 0xCD, 0xEF]) 0 = op := by
  decide

theorem test_meets_RealignIgnoresTheTrailingBits :
    (∀ i, i < 16 → byteAt rawScenario i = byteAt rawScenarioPadded i) ∧
      byteAt rawScenario 16 >>> 5 = byteAt rawScenarioPadded 16 >>> 5 ∧ rawScenario ≠ rawScenarioPadded := by decide

/-- Two buffers that differ in `raw[17]` only (R84). -/
theorem test_meets_RealignAnswersTheRealignedBytes :
    ∀ i, i < 17 → byteAt rawScenario i = byteAt (rawScenario.set 17 0xFF) i := by decide

theorem test_meets_RealignInvertsOversample :
    frameScenario.length = 17 ∧ (byteAt frameScenario 0).extractLsb' 3 5 = 0b01010#5 := by decide

theorem test_meets_RealignEqualsItsShorterForm : (1 ≤ 1 ∧ 1 ≤ 16) ∧ (1 ≤ 16 ∧ 16 ≤ 16) ∧ (5 ≤ 5 ∧ 135 < 136) := by decide

theorem test_meets_DecodeOfEncodedFrameIsThePacket :
    ∃ t : State, exec (.encode 0xABCDEF 1 1 0) busy = .next t ∧ t.responses = busy.responses ++ [0x00 :: frameScenario] :=
  ⟨_, eq_next_after (by decide +kernel), by decide +kernel⟩

/-- The commands and the bits at the ends of the ranges: 0 and 4, 5 and 63, 64 and 135. -/
theorem test_meets_SingleBitErrorVerdict :
    (1 ≤ (1 : Byte).toNat ∧ (6 : Byte).toNat ≤ 6) ∧ (4 < 5 ∧ ¬ 5 < 5) ∧ (63 < 64 ∧ ¬ 64 < 64) ∧ 135 < 136 := by decide

/-- Present; absent with a free place, also below the end of the list; absent and full. -/
theorem test_meets_TrackRegistersInTheLowestFreeEntry :
    busy.Holds 1 .incoming 0xABCDEF ∧
    ((machine 3 [outEntry 5 1, Entry.free]).find .incoming 5 = none ∧ 1 < 3 ∧
      ((machine 3 [outEntry 5 1, Entry.free]).entry 1).valid = false ∧
      ((machine 3 [outEntry 5 1, Entry.free]).entry 0).valid = true) ∧
    ((machine 3 [outEntry 5 1]).find .incoming 5 = none ∧ ((machine 3 [outEntry 5 1]).entry 1).valid = false) ∧
    (busy.find .incoming 5 = none ∧ ∀ k, k < busy.nTrack → (busy.entry k).valid = true) :=
  ⟨(busy_holds_iff 1 _ _).2 ⟨rfl, rfl⟩, by decide, by decide, by decide⟩

theorem test_meets_SecondTrackDoesNotClear :
    ∃ t : State, exec (.track .incoming 5) (machine 2 [outEntry 5 1]) = .next t ∧
      t.responses = (machine 2 [outEntry 5 1]).responses ++ [okBytes []] ∧
      (machine 2 [outEntry 5 1, inEntry 5 200]).Holds 1 .incoming 5 :=
  ⟨_, eq_next_after (by decide), by decide, rfl, rfl, rfl⟩

theorem test_meets_SeqNextAdvancesTheCounter :
    busy.find .outgoing 0xABCDEF = some 0 ∧ busy.find .outgoing 5 = none := by decide

theorem test_meets_SuccessiveSeqNextCountsModulo256 :
    (machine 1 [outEntry 5 254] (List.replicate 3 (encode (.seqNext 5)))).find .outgoing 5 = some 0 := by decide

theorem test_meets_StaleIsTheSixtyFourValueWindow :
    63 ≤ (63 : Byte).toNat ∧ 63 ≤ (255 : Byte).toNat ∧ (0 : Byte).toNat ≤ 62 ∧ (62 : Byte).toNat ≤ 62 := by decide

/-- Distances 64, 255 (fresh), 63, 0 (stale), and no entry. -/
theorem test_meets_SeqCheckAcceptsExactlyTheFresh :
    (machine 1 [inEntry 5 2]).find .incoming 5 = some 0 ∧ (2 + 256 - (194 : Byte).toNat) % 256 = 64 ∧
      (2 + 256 - (3 : Byte).toNat) % 256 = 255 ∧ (2 + 256 - (195 : Byte).toNat) % 256 = 63 ∧
      (2 + 256 - (2 : Byte).toNat) % 256 = 0 ∧ (machine 1 [inEntry 5 2]).find .incoming 6 = none := by decide

/-- Steps 0, 1, 192 and 193 after `last`. -/
theorem test_meets_LossOf191FramesIsTolerated :
    (machine 1 [inEntry 5 100]).find .incoming 5 = some 0 ∧
      ([0, 1, 192, 193].map fun d => (ran (.seqCheck 5 (100 + BitVec.ofNat 8 d)) (machine 1 [inEntry 5 100])).1) =
        [100, 101, 36, 100].map (fun l => [inEntry 5 l]) := by decide

theorem test_meets_FirstFramesAfterRegistration :
    (machine 2 [outEntry 5 1]).find .incoming 5 = none ∧
      ∃ t : State, exec (.track .incoming 5) (machine 2 [outEntry 5 1]) = .next t ∧
        t.responses = (machine 2 [outEntry 5 1]).responses ++ [okBytes []] :=
  ⟨by decide, _, eq_next_after (by decide), by decide⟩

theorem test_meets_NothingIsKnownAfterReset : 1 ≤ (1 : Byte).toNat ∧ (6 : Byte).toNat ≤ 6 := by decide

/-- Commands 0 and 7 (refused), 1 and 6 with no entry, 1 with one. -/
theorem test_meets_SendAdvancesAndBuildsTheFrame :
    (¬ (1 ≤ (0 : Byte).toNat ∧ (0 : Byte).toNat ≤ 6)) ∧ (¬ (1 ≤ (7 : Byte).toNat ∧ (7 : Byte).toNat ≤ 6)) ∧
      1 ≤ (1 : Byte).toNat ∧ (6 : Byte).toNat ≤ 6 ∧ busy.find .outgoing 5 = none ∧
      busy.find .outgoing 0xABCDEF = some 0 := by decide

/-- SEQ_NEXT answers `OK` with 8, and `UnknownSerial`. -/
theorem test_meets_SendIsSeqNextThenEncode :
    (∃ t : State, exec (.seqNext 0xABCDEF) busy = .next t ∧
      t.responses = busy.responses ++ [okBytes (serialBytes 0xABCDEF ++ [8])]) ∧
    ∃ t : State, exec (.seqNext 5) busy = .next t ∧ t.responses = busy.responses ++ [errorBytes 0x04] :=
  ⟨⟨_, eq_next_after (by decide), by decide⟩, _, eq_next_after (by decide), by decide⟩

/-- Each check failing first, with no entry, with the distances 63 and 64, and the two look-ups. -/
theorem test_meets_RecvAcceptsOrReportsTheFirstFailedCheck :
    (realign rawBadPreamble).take 8 ≠ preamble ∧
    ((realign rawBadChecksum).take 8 = preamble ∧ crc16 ((realign rawBadChecksum).take 15) ≠ 0x7B8C) ∧
    (readFrame (realign rawBadCommand)).toOption = none ∧
    (readFrame (realign rawScenario)).toOption =
      some { serial := 0xABCDEF, sequence := 1, command := 1, options := 0 } ∧
    (machine 1 [outEntry 0xABCDEF 64]).find .incoming 0xABCDEF = none ∧
    (machine 1 [inEntry 0xABCDEF 64]).find .incoming 0xABCDEF = some 0 ∧ (64 + 256 - 1) % 256 = 63 ∧
    (65 + 256 - 1) % 256 = 64 := by decide +kernel

/-- DECODE answers an error, and a packet. -/
theorem test_meets_RecvIsDecodeThenSeqCheck :
    (∃ t : State, exec (.decode rawBadChecksum) busy = .next t ∧ t.responses = busy.responses ++ [errorBytes 0x02]) ∧
    ∃ t : State, exec (.decode rawScenario) busy = .next t ∧
      t.responses = busy.responses ++ [okBytes (serialBytes 0xABCDEF ++ [1, 1, 0])] :=
  ⟨⟨_, eq_next_after (by decide +kernel), by decide +kernel⟩, _, eq_next_after (by decide +kernel), by decide +kernel⟩

theorem test_meets_SecondCopyIsStale :
    (∃ t : State, exec (.recv rawScenario) busy = .next t ∧ busy.Answers t packetScenario) ∧
      byteAt packetScenario 0 = 0x00 ∧ realign rawScenarioPadded = realign rawScenario :=
  ⟨⟨_, eq_next_after (by decide +kernel), by decide +kernel, by decide +kernel⟩, rfl, by decide +kernel⟩

theorem test_meets_SeqCheckAfterRecvIsStale :
    ∃ t : State, exec (.recv rawScenario) busy = .next t ∧
      t.responses = busy.responses ++ [okBytes (serialBytes 0xABCDEF ++ [1, 1, 0])] :=
  ⟨_, eq_next_after (by decide +kernel), by decide +kernel⟩

theorem test_meets_SentFrameIsReceived :
    (∃ t : State, exec (.send 0xABCDEF 1 0) (machine 1 [outEntry 0xABCDEF 0]) = .next t ∧
      t.responses = (machine 1 [outEntry 0xABCDEF 0]).responses ++ [0x00 :: frameScenario]) ∧
    busy.find .incoming 0xABCDEF = some 1 ∧ stale (busy.entry 1).last (byteAt frameScenario 12) = false :=
  ⟨⟨_, eq_next_after (by decide +kernel), by decide +kernel⟩, by decide, by decide⟩

theorem test_meets_SetBrightnessSendsTwoFrames :
    (machine 4 [outEntry 0x123456 0] ((HostSide.setBrightness 0x123456 10).map encode)).find .outgoing 0x123456 = some 0 := by
  decide

theorem test_meets_ColorTempAmountFollowsTheTable :
    HostSide.colorTempAmount 153 = some 15 ∧ HostSide.colorTempAmount 370 = some 0 := by decide

/-- Idle with a buffer of 18 bytes; with one of 17; and a burst in progress. -/
theorem test_meets_PollIssuesOneRecv :
    (HostSide.Loop.start busy).burstLeft = [] ∧ rawScenario.length = 18 ∧ (List.replicate 17 (0 : Byte)).length ≠ 18 ∧
      { HostSide.Loop.start busy with burstLeft := [frameScenario] }.burstLeft ≠ [] := by decide

/-- No transmission yet, and 19 of them with a poll between. -/
theorem test_meets_BurstRunsToCompletion :
    (∃ t : State, exec (.send 0xABCDEF 1 0)
        ((machine 1 [outEntry 0xABCDEF 0]).issueFirst (encode (.send 0xABCDEF 1 0))) = .next t ∧
      t.responses = (machine 1 [outEntry 0xABCDEF 0]).responses ++ [0x00 :: frameScenario]) ∧
    ([] : List HostSide.Turn).countP HostSide.Turn.isTransmit < 20 ∧
    (HostSide.Turn.poll none :: List.replicate 19 .transmit).countP HostSide.Turn.isTransmit < 20 :=
  ⟨⟨_, eq_next_after (by decide +kernel), by decide +kernel⟩, by decide, by decide⟩

end Sys2Proof.Tests
end

section
/-! PROOFS of the family "state": what a completed step does to the table, said as one inversion lemma; the invariants
of the table (O12 to O15); and what persists of a valid entry (O17). -/

namespace Sys2Proof.Machine

/-! ### Inversion of a completed step -/

/-- The states a completed operation can end in: one response over the same table, over one written `last`, or over
one registered device. -/
theorem exec_next_cases {i : Instr} {s t : State} (h : exec i s = .next t) :
    (∃ rsp, t = s.answer rsp) ∨
    (∃ dir serial k v rsp, s.find dir serial = some k ∧ t = (s.writeLast k v).answer rsp) ∨
    (∃ dir serial k rsp, s.find dir serial = none ∧ s.freeIndex = some k ∧
      t = (s.writeEntry k (newEntry dir serial)).answer rsp) := by
  rcases exec_cases i s with ⟨st, _, he⟩ | ⟨result, _, he⟩ | ⟨dir, serial, k, v, result, _, _, hf, _, he⟩ |
    ⟨dir, serial, k, _, hf, hk, he⟩ <;> cases he.symm.trans h
  · exact .inl ⟨_, rfl⟩
  · exact .inl ⟨_, rfl⟩
  · exact .inr (.inl ⟨dir, serial, k, v, _, hf, rfl⟩)
  · exact .inr (.inr ⟨dir, serial, k, _, hf, hk, rfl⟩)

/-- A predicate of states that each of the updates a step is made of keeps. -/
structure KeptByUpdates (P : State → Prop) : Prop where
  answer : ∀ {s} rsp, P s → P (s.answer rsp)
  writeLast : ∀ {s dir serial k} v, P s → s.find dir serial = some k → P (s.writeLast k v)
  register : ∀ {s dir serial k}, P s → s.find dir serial = none → s.freeIndex = some k →
    P (s.writeEntry k (newEntry dir serial))

theorem KeptByUpdates.exec {P : State → Prop} (h : KeptByUpdates P) {i : Instr} {s t : State} (hs : P s)
    (he : exec i s = .next t) : P t := by
  rcases exec_next_cases he with ⟨rsp, rfl⟩ | ⟨dir, serial, k, v, rsp, hf, rfl⟩ | ⟨dir, serial, k, rsp, hf, hk, rfl⟩
  · exact h.answer rsp hs
  · exact h.answer rsp (h.writeLast v hs hf)
  · exact h.answer rsp (h.register hs hf hk)

/-- What every update keeps, every step keeps. -/
theorem KeptByUpdates.step {P : State → Prop} (h : KeptByUpdates P) {s t : State} (hs : P s)
    (hst : step s = .next t) : P t := by
  rcases step_cases s with ⟨_, hidle⟩ | ⟨r, rest, i, _, _, hexec⟩ | ⟨r, rest, _, _, hbad⟩ | ⟨r, rest, _, _, hrefused⟩
  · cases hidle.symm.trans hst
    exact hs
  · exact h.exec hs (hexec.symm.trans hst)
  · cases hbad.symm.trans hst
    exact h.answer _ hs
  · cases hrefused.symm.trans hst

/-! ### Unique keys -/

/-- A registration makes no second entry for its device because the look-up found none. -/
theorem keysUnique_keptByUpdates : KeptByUpdates State.KeysUnique where
  answer _ hs := hs
  writeLast v hs _ j k dir serial hj hk := by
    rw [State.holds_writeLast] at hj hk
    exact hs j k dir serial hj hk
  register {s d n f} hs hnone hfree j k dir serial hj hk := by
    have habsent := (s.find_eq_none_iff d n).1 hnone
    rw [s.holds_writeNew f _ d dir n serial (State.freeIndex_eq_some hfree).1] at hj hk
    rcases hj with hj | ⟨hj, rfl, rfl⟩ <;> rcases hk with hk | ⟨hk, hd, hn⟩
    · exact hs j k dir serial hj hk
    · subst hd hn
      exact absurd hj (habsent j)
    · exact absurd hk (habsent k)
    · rw [hj, hk]

/-- Settles O15: keys stay unique under each update a step is made of. -/
theorem stepKeepsKeysUnique : Obligations.StepKeepsKeysUnique :=
  fun _ _ hs hst => keysUnique_keptByUpdates.step hs hst

/-! ### The table invariant -/

/-- "Every listed entry is valid", by index. -/
theorem State.forall_mem_tt_valid_iff (s : State) :
    (∀ e ∈ s.tt, e.valid = true) ↔ ∀ j, j < s.tt.length → (s.entry j).valid = true := by
  rw [List.forall_mem_iff_getElem]
  exact forall₂_congr fun j hj => by rw [s.entry_eq_getElem j hj]

/-- Writing a valid entry at a listed index, or at the first unlisted one, lists valid entries only. -/
theorem State.listedValid_writeEntry {s : State} {k : Nat} {e : Entry} (hs : ∀ e ∈ s.tt, e.valid = true)
    (hk : k ≤ s.tt.length) (he : e.valid = true) : ∀ e' ∈ (s.writeEntry k e).tt, e'.valid = true := by
  rw [State.forall_mem_tt_valid_iff] at hs ⊢
  intro j hj
  rw [State.writeEntry_tt, setEntry_length] at hj
  rw [State.entry_writeEntry]
  split
  next => exact he
  next hjk => exact hs j (by omega)

theorem inv_keptByUpdates : KeptByUpdates State.Inv where
  answer _ hs := ⟨hs.positive, hs.capacity, hs.keysUnique, hs.listedValid⟩
  writeLast {s _ _ k} v hs hfind := by
    have hvalid := (State.find_holds hfind).1
    have hlt := s.lt_length_of_valid k hvalid
    have hcap := hs.capacity
    refine ⟨hs.positive, ?_, keysUnique_keptByUpdates.writeLast v hs.keysUnique hfind,
      State.listedValid_writeEntry hs.listedValid hlt.le hvalid⟩
    rw [State.writeLast_tt, setEntry_length, State.writeLast_nTrack]
    omega
  register {s _ _ k} hs hnone hfree := by
    obtain ⟨_, _, hle, hroom⟩ := State.freeIndex_eq_some hfree
    have hcap := hs.capacity
    refine ⟨hs.positive, ?_, keysUnique_keptByUpdates.register hs.keysUnique hnone hfree,
      State.listedValid_writeEntry hs.listedValid hle rfl⟩
    rw [State.writeEntry_tt, setEntry_length, State.writeEntry_nTrack]
    omega

/-- Settles O14: the invariant is kept by each update a step is made of. -/
theorem stepKeepsTheTableInvariant : Obligations.StepKeepsTheTableInvariant :=
  fun _ _ hs hst => inv_keptByUpdates.step hs hst

/-! ### Reset -/

theorem State.not_holds_resetWith (n k : Nat) (dir : Dir) (serial : Serial) :
    ¬ (State.resetWith n).Holds k dir serial := by
  simp [State.Holds, Entry.free]

/-- Settles O13: the capacity is a successor, and no entry is listed. -/
theorem resetHasTheTableInvariant : Obligations.ResetHasTheTableInvariant where
  positive := Nat.succ_pos Config.extraTracks
  capacity := Nat.zero_le _
  keysUnique j _ dir serial hj := absurd hj (State.not_holds_resetWith _ j dir serial)
  listedValid _ he := absurd he List.not_mem_nil

/-- Settles O12: every entry of a machine out of reset is the free entry. -/
theorem resetLeavesNoDeviceRegistered : Obligations.ResetLeavesNoDeviceRegistered :=
  ⟨fun _ => rfl, rfl, fun _ _ => ⟨rfl, rfl, rfl⟩⟩

/-! ### What persists of an entry -/

/-- Settles O17: of the updates an operation is made of, a written `last` touches the found entry alone and no key of
it, and a registration touches a free entry. -/
theorem entriesPersist : Obligations.EntriesPersist := by
  intro i s t k h hvalid
  rcases exec_cases i s with ⟨st, _, he⟩ | ⟨result, _, he⟩ | ⟨dir, serial, f, v, result, _, hlooked, hfind, hdir, he⟩ |
    ⟨dir, serial, f, _, _, hfree, he⟩ <;> cases he.symm.trans h
  case inl | inr.inl => exact ⟨hvalid, rfl, rfl, fun hne => absurd rfl hne⟩
  case inr.inr.inl =>
    obtain ⟨_, rfl, rfl⟩ := State.find_holds hfind
    rw [State.answer_entry, State.entry_writeLast]
    split
    next hk =>
      subst hk
      exact ⟨hvalid, rfl, rfl, fun _ => ⟨hlooked, hdir⟩⟩
    next => exact ⟨hvalid, rfl, rfl, fun hne => absurd rfl hne⟩
  case inr.inr.inr =>
    have hk : k ≠ f := by
      rintro rfl
      exact absurd hvalid (by rw [(State.freeIndex_eq_some hfree).1]; decide)
    rw [State.answer_entry, State.entry_writeEntry, if_neg hk]
    exact ⟨hvalid, rfl, rfl, fun hne => absurd rfl hne⟩

end Sys2Proof.Machine
end

section
/-! PROOFS of the family "state": two machines in lockstep. What an operation reads of the table is the finite map
`lastOf` and whether a free entry is left; so a relation of tables that fixes these two and is kept by the updates is
kept by every step, with the same responses (O11, O19, O20). -/

namespace Sys2Proof.Machine

/-! ### A step by its pending request -/

theorem step_of_no_request {s : State} (h : s.requests = []) : step s = .next s := by
  simp [step, State.fetch, h]

theorem step_of_decode_ok {s : State} {r : ByteString} {i : Instr} (hr : s.requests.head? = some r)
    (hd : decode r = .ok i) : step s = exec i s := by
  simp [step, State.fetch, hr, hd]

theorem step_of_decode_error {s : State} {r : ByteString} {e : DecodeError} (hr : s.requests.head? = some r)
    (hd : decode r = .error e) : step s = rejectRequest e s := by
  simp [step, State.fetch, hr, hd]

/-! ### Relations of tables -/

/-- A relation that fixes what operations read of the table and that the updates, made on both sides, keep. -/
structure TableSim (R : State → State → Prop) : Prop where
  lastOf_eq : ∀ {s s'}, R s s' → ∀ dir serial, s.lastOf dir serial = s'.lastOf dir serial
  full_iff : ∀ {s s'}, R s s' → (s.freeIndex = none ↔ s'.freeIndex = none)
  answer : ∀ {s s'} rsp, R s s' → R (s.answer rsp) (s'.answer rsp)
  writeLast : ∀ {s s' dir serial k k'} v, R s s' → s.find dir serial = some k → s'.find dir serial = some k' →
    R (s.writeLast k v) (s'.writeLast k' v)
  register : ∀ {s s' dir serial k k'}, R s s' → s.find dir serial = none → s'.find dir serial = none →
    s.freeIndex = some k → s'.freeIndex = some k' →
    R (s.writeEntry k (newEntry dir serial)) (s'.writeEntry k' (newEntry dir serial))

/-- Both results are next states, with the same response and related tables. -/
def BothAnswer (R : State → State → Prop) (s s' : State) (x x' : Result) : Prop :=
  ∃ t t' rsp, x = .next t ∧ x' = .next t' ∧ s.Answers t rsp ∧ s'.Answers t' rsp ∧ R t t'

/-- Equal maps find a device on both sides, with the same `last`, or on neither. -/
theorem State.find_pair_cases {s s' : State} {dir : Dir} {serial : Serial}
    (h : s.lastOf dir serial = s'.lastOf dir serial) :
    (s.find dir serial = none ∧ s'.find dir serial = none) ∨
    (∃ k k', s.find dir serial = some k ∧ s'.find dir serial = some k' ∧ s.readLast k = s'.readLast k') := by
  unfold State.lastOf at h
  cases hf : s.find dir serial <;> cases hf' : s'.find dir serial <;> simp_all

/-- SEQ_NEXT and SEND fail alike or write the same number into the entry each side finds. -/
theorem State.allocate_pair_cases {s s' : State} {serial : Serial}
    (h : s.lastOf .outgoing serial = s'.lastOf .outgoing serial) :
    (∃ st, s.allocate serial = .error st ∧ s'.allocate serial = .error st) ∨
    (∃ k k' v, s.find .outgoing serial = some k ∧ s'.find .outgoing serial = some k' ∧
      s.allocate serial = .ok (v, s.writeLast k v) ∧ s'.allocate serial = .ok (v, s'.writeLast k' v)) := by
  unfold State.allocate
  rcases State.find_pair_cases h with ⟨hf, hf'⟩ | ⟨k, k', hf, hf', hlast⟩ <;> rw [hf, hf']
  · exact .inl ⟨_, rfl, rfl⟩
  · exact .inr ⟨k, k', s.readLast k + 1, rfl, rfl, rfl, by rw [hlast]⟩

/-- SEQ_CHECK and RECV fail alike or record the number in the entry each side finds. -/
theorem State.accept_pair_cases {s s' : State} {serial : Serial} (q : Byte)
    (h : s.lastOf .incoming serial = s'.lastOf .incoming serial) :
    (∃ st, s.accept serial q = .error st ∧ s'.accept serial q = .error st) ∨
    (∃ k k', s.find .incoming serial = some k ∧ s'.find .incoming serial = some k' ∧
      s.accept serial q = .ok (s.writeLast k q) ∧ s'.accept serial q = .ok (s'.writeLast k' q)) := by
  unfold State.accept
  rcases State.find_pair_cases h with ⟨hf, hf'⟩ | ⟨k, k', hf, hf', hlast⟩ <;> rw [hf, hf']
  · exact .inl ⟨_, rfl, rfl⟩
  · dsimp only
    rw [hlast]
    split
    · exact .inl ⟨_, rfl, rfl⟩
    · exact .inr ⟨k, k', rfl, rfl, rfl, rfl⟩

namespace TableSim

variable {R : State → State → Prop} {s s' : State}

theorem bothAnswer_raise (h : TableSim R) (hR : R s s') (st : Status) :
    BothAnswer R s s' (raise st s) (raise st s') :=
  ⟨_, _, _, rfl, rfl, ⟨rfl, rfl⟩, ⟨rfl, rfl⟩, h.answer _ hR⟩

theorem bothAnswer_finish (h : TableSim R) (hR : R s s') (result : ByteString) :
    BothAnswer R s s' (finish result s) (finish result s') :=
  ⟨_, _, _, rfl, rfl, ⟨rfl, rfl⟩, ⟨rfl, rfl⟩, h.answer _ hR⟩

theorem bothAnswer_writeLast (h : TableSim R) (hR : R s s') {dir : Dir} {serial : Serial} {k k' : Nat}
    (hf : s.find dir serial = some k) (hf' : s'.find dir serial = some k') (v : Byte) (result : ByteString) :
    BothAnswer R s s' (finish result (s.writeLast k v)) (finish result (s'.writeLast k' v)) :=
  ⟨_, _, _, rfl, rfl, ⟨rfl, rfl⟩, ⟨rfl, rfl⟩, h.answer _ (h.writeLast v hR hf hf')⟩

theorem bothAnswer_track (h : TableSim R) (hR : R s s') (dir : Dir) (serial : Serial) :
    BothAnswer R s s' (execTrack dir serial s) (execTrack dir serial s') := by
  unfold execTrack State.register
  rcases State.find_pair_cases (h.lastOf_eq hR dir serial) with ⟨hf, hf'⟩ | ⟨k, k', hf, hf', _⟩ <;> rw [hf, hf']
  · have hfull := h.full_iff hR
    cases hk : s.freeIndex with
    | none =>
      rw [hfull.1 hk]
      exact h.bothAnswer_raise hR _
    | some k =>
      cases hk' : s'.freeIndex with
      | none => exact absurd (hfull.2 hk') (by simp [hk])
      | some k' => exact ⟨_, _, _, rfl, rfl, ⟨rfl, rfl⟩, ⟨rfl, rfl⟩, h.answer _ (h.register hR hf hf' hk hk')⟩
  · exact h.bothAnswer_finish hR _

/-- Every operation answers the same on related tables and relates the tables after it. -/
theorem bothAnswer_exec (h : TableSim R) (hR : R s s') (i : Instr) : BothAnswer R s s' (exec i s) (exec i s') := by
  cases i with
  | crc16 data => exact h.bothAnswer_finish hR _
  | realign raw => exact h.bothAnswer_finish hR _
  | encode serial seq cmd opt =>
    simp only [exec, execEncode]
    split
    · exact h.bothAnswer_finish hR _
    · exact h.bothAnswer_raise hR _
  | decode raw =>
    simp only [exec, execDecode]
    cases readFrame (realign raw) with
    | error st => exact h.bothAnswer_raise hR st
    | ok p => exact h.bothAnswer_finish hR _
  | track dir serial => exact h.bothAnswer_track hR dir serial
  | seqNext serial =>
    simp only [exec, execSeqNext]
    rcases State.allocate_pair_cases (h.lastOf_eq hR .outgoing serial) with
      ⟨st, ha, ha'⟩ | ⟨k, k', v, hf, hf', ha, ha'⟩ <;> rw [ha, ha']
    · exact h.bothAnswer_raise hR st
    · exact h.bothAnswer_writeLast hR hf hf' v _
  | seqCheck serial seq =>
    simp only [exec, execSeqCheck]
    rcases State.accept_pair_cases seq (h.lastOf_eq hR .incoming serial) with
      ⟨st, ha, ha'⟩ | ⟨k, k', hf, hf', ha, ha'⟩ <;> rw [ha, ha']
    · exact h.bothAnswer_raise hR st
    · exact h.bothAnswer_writeLast hR hf hf' seq _
  | send serial cmd opt =>
    simp only [exec, execSend]
    split
    · rcases State.allocate_pair_cases (h.lastOf_eq hR .outgoing serial) with
        ⟨st, ha, ha'⟩ | ⟨k, k', v, hf, hf', ha, ha'⟩ <;> rw [ha, ha']
      · exact h.bothAnswer_raise hR st
      · exact h.bothAnswer_writeLast hR hf hf' v _
    · exact h.bothAnswer_raise hR _
  | recv raw =>
    simp only [exec, execRecv]
    cases readFrame (realign raw) with
    | error st => exact h.bothAnswer_raise hR st
    | ok p =>
      dsimp only
      rcases State.accept_pair_cases p.sequence (h.lastOf_eq hR .incoming p.serial) with
        ⟨st, ha, ha'⟩ | ⟨k, k', hf, hf', ha, ha'⟩ <;> rw [ha, ha']
      · exact h.bothAnswer_raise hR st
      · exact h.bothAnswer_writeLast hR hf hf' p.sequence _

/-- Machines with related tables and the same request to take answer it alike, unless it is no request (R60). -/
theorem bothAnswer_step (h : TableSim R) (hR : R s s') {r : ByteString} (hr : s.requests.head? = some r)
    (hr' : s'.requests.head? = some r) {t : State} (hst : step s = .next t) :
    BothAnswer R s s' (step s) (step s') := by
  cases hd : decode r with
  | ok i =>
    rw [step_of_decode_ok hr hd, step_of_decode_ok hr' hd]
    exact h.bothAnswer_exec hR i
  | error e =>
    rw [step_of_decode_error hr hd] at hst ⊢
    rw [step_of_decode_error hr' hd]
    cases e with
    | badOp => exact h.bothAnswer_raise hR _
    | notARequest => cases hst

/-- The simulation: machines with related tables and the same requests and responses stay so. -/
theorem step_related (h : TableSim R) (hR : R s s') (hreq : s.requests = s'.requests)
    (hrsp : s.responses = s'.responses) {t : State} (hst : step s = .next t) :
    ∃ t', step s' = .next t' ∧ R t t' ∧ t.requests = t'.requests ∧ t.responses = t'.responses := by
  cases hr : s.requests with
  | nil =>
    cases (step_of_no_request hr).symm.trans hst
    exact ⟨s', step_of_no_request (hreq ▸ hr), hR, hreq, hrsp⟩
  | cons r rest =>
    have hhead : s.requests.head? = some r := by rw [hr]; rfl
    obtain ⟨u, t', rsp, hu, ht', ⟨hureq, hursp⟩, ⟨htreq, htrsp⟩, hR'⟩ :=
      h.bothAnswer_step hR hhead (hreq ▸ hhead) hst
    cases hu.symm.trans hst
    exact ⟨t', ht', hR', by rw [hureq, htreq, hreq], by rw [hursp, htrsp, hrsp]⟩

end TableSim

/-! ### The same table -/

/-- The same capacity and the same list of entries. -/
def State.SameTable (s s' : State) : Prop := s.nTrack = s'.nTrack ∧ s.tt = s'.tt

theorem State.SameTable.find_eq {s s' : State} (h : s.SameTable s') (dir : Dir) (serial : Serial) :
    s.find dir serial = s'.find dir serial := by
  rw [State.find, h.2, State.find]

theorem State.SameTable.freeIndex_eq {s s' : State} (h : s.SameTable s') : s.freeIndex = s'.freeIndex := by
  rw [State.freeIndex, h.1, h.2, State.freeIndex]

theorem State.SameTable.entry_eq {s s' : State} (h : s.SameTable s') : s.entry = s'.entry := by
  funext k
  rw [State.entry, h.2, State.entry]

theorem State.SameTable.writeEntry {s s' : State} (h : s.SameTable s') (k : Nat) (e : Entry) :
    (s.writeEntry k e).SameTable (s'.writeEntry k e) :=
  ⟨h.1, by rw [State.writeEntry_tt, h.2, State.writeEntry_tt]⟩

theorem sameTable_tableSim : TableSim State.SameTable where
  lastOf_eq {s s'} h dir serial := by
    have hread : s.readLast = s'.readLast := by
      funext k
      rw [State.readLast, h.entry_eq, State.readLast]
    rw [State.lastOf, h.find_eq, hread, State.lastOf]
  full_iff h := by rw [h.freeIndex_eq]
  answer _ h := h
  writeLast {s s' _ _ k k'} v h hf hf' := by
    obtain rfl : k = k' := Option.some.inj (hf.symm.trans ((h.find_eq _ _).trans hf'))
    rw [State.writeLast, h.entry_eq]
    exact h.writeEntry k _
  register {_ _ _ _ k k'} h _ _ hk hk' := by
    obtain rfl : k = k' := Option.some.inj (hk.symm.trans (h.freeIndex_eq.trans hk'))
    exact h.writeEntry k _

/-- Settles O11: equality of the tables is a simulation. -/
theorem responseDependsOnRequestAndTableOnly : Obligations.ResponseDependsOnRequestAndTableOnly := by
  intro s s' t r hn htt hr hr' hst
  obtain ⟨u, t', rsp, hu, ht', ⟨_, hursp⟩, ⟨_, htrsp⟩, hn', htt'⟩ :=
    sameTable_tableSim.bothAnswer_step ⟨hn, htt⟩ hr hr' hst
  cases hu.symm.trans hst
  exact ⟨t', rsp, ht', hn'.symm, htt'.symm, hursp, htrsp⟩

/-! ### The same finite map -/

/-- No entry holds two devices. -/
theorem State.Holds.key_unique {s : State} {k : Nat} {d d' : Dir} {n n' : Serial} (h : s.Holds k d n)
    (h' : s.Holds k d' n') : d = d' ∧ n = n' :=
  ⟨h.2.1.symm.trans h'.2.1, h.2.2.symm.trans h'.2.2⟩

/-- Writing `last` of the entry found for a device changes the map at that device alone. -/
theorem State.lastOf_writeLast {s : State} {d : Dir} {n : Serial} {k : Nat} (hf : s.find d n = some k) (v : Byte)
    (dir : Dir) (serial : Serial) :
    (s.writeLast k v).lastOf dir serial = if d = dir ∧ n = serial then some v else s.lastOf dir serial := by
  unfold State.lastOf
  rw [State.find_writeLast]
  split
  next hkey =>
    obtain ⟨rfl, rfl⟩ := hkey
    simp [hf, State.readLast]
  next hkey =>
    cases hj : s.find dir serial with
    | none => rfl
    | some j =>
      have hjk : j ≠ k := by
        rintro rfl
        exact hkey ((State.find_holds hf).key_unique (State.find_holds hj))
      simp [State.readLast, hjk]

/-- The look-up after the registration of an absent device over a free entry. -/
theorem State.find_writeNew {s : State} {d : Dir} {n : Serial} {k : Nat} (hnone : s.find d n = none)
    (hk : (s.entry k).valid = false) (dir : Dir) (serial : Serial) :
    (s.writeEntry k (newEntry d n)).find dir serial =
      if d = dir ∧ n = serial then some k else s.find dir serial := by
  split
  next hkey =>
    obtain ⟨rfl, rfl⟩ := hkey
    have habsent := (s.find_eq_none_iff d n).1 hnone
    simp only [State.find_eq_some_iff, s.holds_writeNew k _ d d n n hk, habsent, false_or, and_self, and_true, true_and]
    exact fun _ hj => hj.ne
  next hkey =>
    refine State.find_congr fun j => ?_
    rw [s.holds_writeNew k j d dir n serial hk]
    exact or_iff_left fun hj => hkey hj.2

/-- Registration of an absent device changes the map at that device alone. -/
theorem State.lastOf_writeNew {s : State} {d : Dir} {n : Serial} {k : Nat} (hnone : s.find d n = none)
    (hk : (s.entry k).valid = false) (dir : Dir) (serial : Serial) :
    (s.writeEntry k (newEntry d n)).lastOf dir serial =
      if d = dir ∧ n = serial then some seqInit else s.lastOf dir serial := by
  unfold State.lastOf
  rw [State.find_writeNew hnone hk]
  split
  next => simp [State.readLast, newEntry]
  next =>
    cases hj : s.find dir serial with
    | none => rfl
    | some j =>
      have hjk : j ≠ k := by
        rintro rfl
        rw [(State.find_holds hj).1] at hk
        cases hk
      simp [State.readLast, hjk]

theorem State.freeCount_eq_zero_iff (s : State) :
    s.freeCount = 0 ↔ s.nTrack ≤ s.tt.length ∧ ∀ j, j < s.tt.length → (s.entry j).valid = true := by
  rw [← s.forall_mem_tt_valid_iff, State.freeCount, Nat.add_eq_zero_iff, List.countP_eq_zero, Nat.sub_eq_zero_iff_le,
    and_comm]
  simp

/-- No free entry is found iff none is left. -/
theorem State.freeIndex_eq_none_iff (s : State) : s.freeIndex = none ↔ s.freeCount = 0 := by
  rw [State.freeCount_eq_zero_iff]
  constructor
  · exact State.freeIndex_eq_none
  · rintro ⟨hfull, hvalid⟩
    cases hk : s.freeIndex with
    | none => rfl
    | some k =>
      obtain ⟨hfree, _, _, hroom⟩ := State.freeIndex_eq_some hk
      rw [hvalid k (by omega)] at hfree
      cases hfree

/-- A listed entry that is valid is not one of the free ones. -/
theorem State.freeCount_writeLast {s : State} {k : Nat} (hvalid : (s.entry k).valid = true) (v : Byte) :
    (s.writeLast k v).freeCount = s.freeCount := by
  have hlt := s.lt_length_of_valid k hvalid
  have hvalid' : s.tt[k].valid = true := by rwa [← s.entry_eq_getElem k hlt]
  simp [State.freeCount, setEntry, hlt, List.countP_set, hvalid, hvalid']

/-- A registration takes one free place. -/
theorem State.freeCount_writeNew {s : State} {k : Nat} (hk : s.freeIndex = some k) (dir : Dir) (serial : Serial) :
    (s.writeEntry k (newEntry dir serial)).freeCount + 1 = s.freeCount := by
  obtain ⟨hfree, _, hle, hroom⟩ := State.freeIndex_eq_some hk
  rcases hle.lt_or_eq with hlt | rfl
  · have hfree' : s.tt[k].valid = false := by rwa [← s.entry_eq_getElem k hlt]
    have hpos : 0 < s.tt.countP (fun e => !e.valid) :=
      List.countP_pos_iff.2 ⟨s.tt[k], List.getElem_mem hlt, by simp [hfree']⟩
    simp [State.freeCount, setEntry, hlt, List.countP_set, hfree', newEntry]
    omega
  · simp [State.freeCount, setEntry, newEntry]
    omega

theorem sameMap_tableSim : TableSim State.SameMap where
  lastOf_eq h := h.1
  full_iff {s s'} h := by rw [s.freeIndex_eq_none_iff, s'.freeIndex_eq_none_iff, h.2]
  answer _ h := h
  writeLast v h hf hf' := by
    refine ⟨fun dir serial => ?_, ?_⟩
    · rw [State.lastOf_writeLast hf, State.lastOf_writeLast hf', h.1]
    · rw [State.freeCount_writeLast (State.find_holds hf).1, State.freeCount_writeLast (State.find_holds hf').1, h.2]
  register {s s' d n _ _} h hf hf' hk hk' := by
    refine ⟨fun dir serial => ?_, ?_⟩
    · rw [State.lastOf_writeNew hf (State.freeIndex_eq_some hk).1,
        State.lastOf_writeNew hf' (State.freeIndex_eq_some hk').1, h.1]
    · have hcount := State.freeCount_writeNew hk d n
      have hcount' := State.freeCount_writeNew hk' d n
      have hsame := h.2
      omega

/-- Settles O19: equality of the finite maps is a simulation. -/
theorem tableIsAFiniteMap : Obligations.TableIsAFiniteMap :=
  fun _ _ _ hmap hreq hrsp hst => sameMap_tableSim.step_related hmap hreq hrsp hst

/-! ### The same used entries -/

namespace State.SameUsed

variable {s s' : State}

theorem holds_iff (h : s.SameUsed s') (k : Nat) (dir : Dir) (serial : Serial) :
    s.Holds k dir serial ↔ s'.Holds k dir serial := by
  obtain ⟨_, _, _, hentry⟩ := h
  obtain ⟨hvalid, heq⟩ := hentry k
  cases hv : (s.entry k).valid with
  | false => simp [State.Holds, ← hvalid, hv]
  | true => rw [State.Holds, heq hv, State.Holds]

theorem find_eq (h : s.SameUsed s') (dir : Dir) (serial : Serial) : s.find dir serial = s'.find dir serial :=
  State.find_congr fun k => h.holds_iff k dir serial

theorem entry_eq_of_find (h : s.SameUsed s') {dir : Dir} {serial : Serial} {k : Nat}
    (hf : s.find dir serial = some k) : s.entry k = s'.entry k := by
  obtain ⟨_, _, _, hentry⟩ := h
  exact (hentry k).2 (State.find_holds hf).1

/-- Writing the same entry within the capacity leaves only free entries to differ. -/
theorem writeEntry (h : s.SameUsed s') {k : Nat} (hk : k < s.nTrack) (e : Entry) :
    (s.writeEntry k e).SameUsed (s'.writeEntry k e) := by
  obtain ⟨hn, hlen, hlen', hentry⟩ := h
  refine ⟨hn, ?_, ?_, fun j => ?_⟩
  · rw [State.writeEntry_tt, setEntry_length, State.writeEntry_nTrack]
    omega
  · rw [State.writeEntry_tt, setEntry_length, State.writeEntry_nTrack]
    omega
  · rw [State.entry_writeEntry, State.entry_writeEntry]
    split
    next => exact ⟨rfl, fun _ => rfl⟩
    next => exact hentry j

end State.SameUsed

/-- In a table within its capacity the free entry taken is the first index below `N_TRACK` that is not valid, listed or
not. -/
theorem State.freeIndex_eq_some_iff {s : State} (hlen : s.tt.length ≤ s.nTrack) (k : Nat) :
    s.freeIndex = some k ↔
      k < s.nTrack ∧ (s.entry k).valid = false ∧ ∀ j, j < k → (s.entry j).valid = true := by
  constructor
  · intro hk
    obtain ⟨hfree, hbelow, _, hroom⟩ := State.freeIndex_eq_some hk
    exact ⟨by omega, hfree, hbelow⟩
  · rintro ⟨hlt, hfree, hbelow⟩
    cases hj : s.freeIndex with
    | none =>
      obtain ⟨hfull, hvalid⟩ := State.freeIndex_eq_none hj
      rw [hvalid k (by omega)] at hfree
      cases hfree
    | some j =>
      obtain ⟨hfree', hbelow', _, _⟩ := State.freeIndex_eq_some hj
      rcases lt_trichotomy j k with hjk | rfl | hkj
      · rw [hbelow j hjk] at hfree'
        cases hfree'
      · rfl
      · rw [hbelow' k hkj] at hfree
        cases hfree

theorem State.SameUsed.freeIndex_eq {s s' : State} (h : s.SameUsed s') : s.freeIndex = s'.freeIndex := by
  obtain ⟨hn, hlen, hlen', hentry⟩ := h
  apply Option.ext
  intro k
  rw [State.freeIndex_eq_some_iff hlen, State.freeIndex_eq_some_iff hlen']
  simp only [hn, fun j => (hentry j).1]

theorem sameUsed_tableSim : TableSim State.SameUsed where
  lastOf_eq {s s'} h dir serial := by
    rw [State.lastOf, State.lastOf, ← h.find_eq dir serial]
    cases hf : s.find dir serial with
    | none => rfl
    | some k => simp [State.readLast, h.entry_eq_of_find hf]
  full_iff h := by rw [h.freeIndex_eq]
  answer _ h := h
  writeLast {s s' _ _ k k'} v h hf hf' := by
    obtain rfl : k = k' := Option.some.inj (hf.symm.trans ((h.find_eq _ _).trans hf'))
    have hlt := (s.lt_length_of_valid k (State.find_holds hf).1).trans_le h.2.1
    rw [State.writeLast, h.entry_eq_of_find hf]
    exact h.writeEntry hlt _
  register {s _ _ _ k k'} h _ _ hk hk' := by
    obtain rfl : k = k' := Option.some.inj (hk.symm.trans (h.freeIndex_eq.trans hk'))
    exact h.writeEntry ((State.freeIndex_eq_some_iff h.2.1 k).1 hk).1 _

/-- Settles O20: agreement on the used entries is a simulation. -/
theorem freeEntryFieldsAreUnobservable : Obligations.FreeEntryFieldsAreUnobservable :=
  fun _ _ _ hused hreq hrsp hst => sameUsed_tableSim.step_related hused hreq hrsp hst

end Sys2Proof.Machine
end

section
/-! PROOFS of the family "memory": what the operations take from the request queue and add to the responses (O1, O2),
and the byte and bit order of the strings they handle (O21, O28). -/

namespace Sys2Proof

/-! ### Byte order -/

theorem toNat_be16 (h l : Byte) : (be16 h l).toNat = h.toNat * 256 + l.toNat := by
  rw [be16, BitVec.toNat_append, ← Nat.shiftLeft_add_eq_or_of_lt l.isLt, Nat.shiftLeft_eq]

theorem be24_eq_append_be16 (a b c : Byte) : be24 a b c = be16 a b ++ c := rfl

theorem toNat_be24 (a b c : Byte) : (be24 a b c).toNat = a.toNat * 65536 + b.toNat * 256 + c.toNat := by
  rw [be24_eq_append_be16, BitVec.toNat_append, ← Nat.shiftLeft_add_eq_or_of_lt c.isLt, Nat.shiftLeft_eq, toNat_be16]
  omega

/-- The bytes of an assembled checksum are the bytes it was assembled from. -/
@[simp] theorem halfBytes_assembled (h l : Byte) : halfBytes (be16 h l) = [h, l] := by
  rw [halfBytes, be16, BitVec.extractLsb'_append_eq_left, BitVec.extractLsb'_append_eq_right]

/-- Settles O21: an appended byte is worth 256 times less than the one before it, and layout undoes assembly. -/
theorem assemblyIsBigEndian : Obligations.AssemblyIsBigEndian :=
  ⟨toNat_be16, toNat_be24, serialBytes_assembled, halfBytes_assembled⟩

/-! ### Bit order of the realigned string -/

/-- The first realigned byte: five fixed bits, then the first three of the raw stream. -/
theorem getMsbD_realignByte_zero (raw : ByteString) {m : Nat} (hm : m < 8) :
    (realignByte raw 0).getMsbD m = if m < 5 then (0x50#8).getMsbD m else (byteAt raw 0).getMsbD (m - 5) := by
  rw [realignByte]
  interval_cases m <;> simp [BitVec.getMsbD_eq_getLsbD]

/-- A later realigned byte: the last five bits of one raw byte, then the first three of the next. -/
theorem getMsbD_realignByte_succ (raw : ByteString) (i : Nat) {m : Nat} (hm : m < 8) :
    (realignByte raw (i + 1)).getMsbD m =
      if m < 5 then (byteAt raw i).getMsbD (m + 3) else (byteAt raw (i + 1)).getMsbD (m - 5) := by
  rw [realignByte]
  interval_cases m <;> simp [BitVec.getMsbD_eq_getLsbD]

theorem streamBit_realign (raw : ByteString) {j : Nat} (hj : j < 136) :
    streamBit (realign raw) j = (realignByte raw (j / 8)).getMsbD (j % 8) := by
  rw [streamBit, byteAt_realign raw (j / 8) (by omega)]

/-- Stream bit `8 * i + m` is bit `m` of byte `i`. -/
theorem streamBit_eq_getMsbD (b : ByteString) {i j m : Nat} (hm : m < 8) (hj : j = 8 * i + m) :
    streamBit b j = (byteAt b i).getMsbD m := by
  rw [streamBit, show j / 8 = i by omega, show j % 8 = m by omega]

theorem streamBit_realign_of_lt_five (raw : ByteString) {j : Nat} (hj : j < 5) :
    streamBit (realign raw) j = (0x50#8).getMsbD j := by
  rw [streamBit_realign raw (by omega), show j / 8 = 0 by omega, show j % 8 = j by omega,
    getMsbD_realignByte_zero raw (by omega), if_pos hj]

theorem streamBit_realign_of_five_le (raw : ByteString) {j : Nat} (hj : 5 ≤ j) (hj' : j < 136) :
    streamBit (realign raw) j = streamBit raw (j - 5) := by
  rw [streamBit_realign raw hj']
  have hm : j % 8 < 8 := Nat.mod_lt _ (by decide)
  cases hi : j / 8 with
  | zero =>
    rw [getMsbD_realignByte_zero raw hm, if_neg (by omega)]
    exact (streamBit_eq_getMsbD raw (by omega) (by omega)).symm
  | succ i =>
    rw [getMsbD_realignByte_succ raw i hm]
    split
    next => exact (streamBit_eq_getMsbD raw (by omega) (by omega)).symm
    next => exact (streamBit_eq_getMsbD raw (by omega) (by omega)).symm

/-- Settles O28: byte by byte, the first with the five fixed bits in front. -/
theorem realignmentIsAFiveBitShift : Obligations.RealignmentIsAFiveBitShift := by
  refine fun raw => ⟨fun j hj hj' => streamBit_realign_of_five_le raw hj hj', ?_⟩
  have hbits : ∀ j ∈ List.range 5, streamBit (realign raw) j = (0x50#8).getMsbD j :=
    fun j hj => streamBit_realign_of_lt_five raw (List.mem_range.1 hj)
  rw [List.map_congr_left hbits]
  decide

namespace Machine

/-! ### Requests and responses -/

/-- Settles O1: the step's equation, for the head of the queue. -/
theorem stepRunsTheDecodedRequest : Obligations.StepRunsTheDecodedRequest :=
  fun _ _ _ _ hr hd => step_of_decode_ok (by rw [hr]; rfl) hd

/-- The status codes are 0 to 7 (R140). -/
theorem status_code_toNat_le (st : Status) : st.code.toNat ≤ 7 := by
  cases st <;> decide

theorem response_length {result : ByteString} (st : Status) (hlen : result.length = 17) :
    (response st result).length = 18 := by
  rw [response, List.length_cons, hlen]

/-- A response given over the same queues and capacity, whatever the table has become, completes the operation. -/
theorem completes_of_answer {s s' : State} (st : Status) {result : ByteString} (hreq : s'.requests = s.requests)
    (hrsp : s'.responses = s.responses) (hn : s'.nTrack = s.nTrack) (hlen : result.length = 17) :
    ∃ (t : State) (rsp : ByteString), (.next (s'.answer (response st result)) : Result) = .next t ∧ s.Answers t rsp ∧
      rsp.length = 18 ∧ (byteAt rsp 0).toNat ≤ 7 ∧ t.nTrack = s.nTrack :=
  ⟨_, response st result, rfl, ⟨by rw [State.answer_requests, hreq], by rw [State.answer_responses, hrsp]⟩,
    response_length st hlen, status_code_toNat_le st, hn⟩

/-- Settles O2: none of the updates an operation is made of touches the queues or the capacity, and each way to end
gives one response. -/
theorem everyOperationCompletesWithOneResponse : Obligations.EveryOperationCompletesWithOneResponse := by
  intro i s
  rcases exec_cases i s with ⟨st, _, he⟩ | ⟨result, hlen, he⟩ | ⟨_, _, k, v, result, hlen, _, _, _, he⟩ |
    ⟨dir, serial, k, _, _, _, he⟩ <;> rw [he]
  · exact completes_of_answer st rfl rfl rfl rfl
  · exact completes_of_answer .ok rfl rfl rfl (zeroFill_length _ _ hlen)
  · exact completes_of_answer .ok rfl rfl rfl (zeroFill_length _ _ hlen)
  · exact completes_of_answer .ok rfl rfl rfl rfl

end Machine

end Sys2Proof
end

section
/-! PROOFS of the family "memory": one request issued twice, with nothing between (R38, O55). An operation that left the
table meets the same table again; one that wrote a `last` finds what it wrote. -/

namespace Sys2Proof.Machine

/-! ### What R38 says of the second issue -/

/-- `i` issued twice from `s` answers both times, and the states and responses are as `clause` says. -/
def SecondIssue (i : Instr) (s : State) (clause : State → State → ByteString → ByteString → Prop) : Prop :=
  ∃ (t u : State) (rsp rsp' : ByteString),
    exec i s = .next t ∧ s.Answers t rsp ∧ exec i t = .next u ∧ t.Answers u rsp' ∧ clause t u rsp rsp'

/-- The same response twice, and neither issue wrote the table. -/
def AnsweredAlike (s t u : State) (rsp rsp' : ByteString) : Prop := rsp' = rsp ∧ s.TableKept t ∧ t.TableKept u

/-- `onOk` where the first issue was answered `OK`; where it failed, the second failed the same way. -/
def ByFirstStatus (s : State) (onOk : State → State → ByteString → ByteString → Prop) (t u : State)
    (rsp rsp' : ByteString) : Prop :=
  (byteAt rsp 0 = 0x00 → onOk t u rsp rsp') ∧ (byteAt rsp 0 ≠ 0x00 → AnsweredAlike s t u rsp rsp')

/-- The second issue is answered `OK` too, with the next number in response byte `pos`; both advanced the counter. -/
def CounterAdvanced (s : State) (serial : Serial) (pos : Nat) (t u : State) (rsp rsp' : ByteString) : Prop :=
  byteAt rsp' 0 = 0x00 ∧ byteAt rsp' pos = byteAt rsp pos + 1 ∧
    t.lastOf .outgoing serial = (s.lastOf .outgoing serial).map (· + 1) ∧
    u.lastOf .outgoing serial = (t.lastOf .outgoing serial).map (· + 1)

/-- The second issue is `StaleSequence` and leaves the table. -/
def FoundStale (t u : State) (_rsp rsp' : ByteString) : Prop := rsp' = errorBytes 0x05 ∧ t.TableKept u

/-! ### An operation that leaves the table -/

theorem State.answers_answer (s : State) (rsp : ByteString) : s.Answers (s.answer rsp) rsp := ⟨rfl, rfl⟩

theorem State.tableKept_answer (s : State) (rsp : ByteString) : s.TableKept (s.answer rsp) := ⟨rfl, rfl⟩

theorem State.Answers.response_unique {s t : State} {rsp rsp' : ByteString} (h : s.Answers t rsp)
    (h' : s.Answers t rsp') : rsp = rsp' := by
  simpa using h.2.symm.trans h'.2

/-- An operation that only answered meets the same table the second time, so it only answers the same again. -/
theorem secondIssue_of_answer {i : Instr} {s : State} {rsp : ByteString} (h : exec i s = .next (s.answer rsp))
    {clause : State → State → ByteString → ByteString → Prop}
    (hclause : ∀ u, AnsweredAlike s (s.answer rsp) u rsp rsp → clause (s.answer rsp) u rsp rsp) :
    SecondIssue i s clause := by
  obtain ⟨t, u, rsp', ht, hu, hans, hans', hn, htt⟩ :=
    sameTable_tableSim.bothAnswer_exec (s := s) (s' := s.answer rsp) ⟨rfl, rfl⟩ i
  cases ht.symm.trans h
  cases hans.response_unique (s.answers_answer rsp)
  exact ⟨_, u, rsp, rsp, h, hans, hu, hans', hclause u ⟨rfl, s.tableKept_answer rsp, hn.symm, htt.symm⟩⟩

/-- An operation that looks nothing up only answers. -/
theorem exec_eq_answer_of_lookedUp_eq_none {i : Instr} (h : lookedUp i = none) (s : State) :
    ∃ rsp, exec i s = .next (s.answer rsp) := by
  rcases exec_cases i s with ⟨_, _, he⟩ | ⟨_, _, he⟩ | ⟨_, _, _, _, _, _, hlooked, _⟩ | ⟨_, _, _, rfl, _⟩
  · exact ⟨_, he⟩
  · exact ⟨_, he⟩
  · cases h.symm.trans hlooked
  · cases h

theorem secondIssue_of_lookedUp_eq_none {i : Instr} (h : lookedUp i = none) (s : State) :
    SecondIssue i s (AnsweredAlike s) := by
  obtain ⟨rsp, he⟩ := exec_eq_answer_of_lookedUp_eq_none h s
  exact secondIssue_of_answer he fun _ halike => halike

theorem status_code_ne_zero {st : Status} (h : st ≠ .ok) : st.code ≠ 0x00 := by
  cases st with
  | ok => exact absurd rfl h
  | _ => decide

/-- An operation that failed fails the same way the second time. -/
theorem secondIssue_of_raise {i : Instr} {s : State} {st : Status} (h : exec i s = raise st s) (hst : st ≠ .ok)
    (onOk : State → State → ByteString → ByteString → Prop) : SecondIssue i s (ByFirstStatus s onOk) :=
  secondIssue_of_answer h fun _ halike => ⟨fun hok => absurd hok (status_code_ne_zero hst), fun _ => halike⟩

/-! ### TRACK -/

theorem exec_track_of_register_ok {s s' : State} {dir : Dir} {serial : Serial} (h : s.register dir serial = .ok s') :
    exec (.track dir serial) s = finish resultN s' := by
  rw [exec, execTrack, h]

theorem exec_track_of_register_error {s : State} {dir : Dir} {serial : Serial} {st : Status}
    (h : s.register dir serial = .error st) : exec (.track dir serial) s = raise st s := by
  rw [exec, execTrack, h]

/-- A registered device has nothing to be registered (R101). -/
theorem State.register_of_find_eq_some {s : State} {dir : Dir} {serial : Serial} {k : Nat}
    (h : s.find dir serial = some k) : s.register dir serial = .ok s := by
  rw [State.register, h]

/-- The first TRACK leaves the device registered or the table as it was. -/
theorem secondIssue_track (dir : Dir) (serial : Serial) (s : State) :
    SecondIssue (.track dir serial) s fun t u rsp rsp' => rsp' = rsp ∧ t.TableKept u := by
  rcases s.register_cases dir serial with ⟨k, _, hreg⟩ | ⟨k, hnone, hfree, hreg⟩ | ⟨_, _, hreg⟩
  · exact secondIssue_of_answer (exec_track_of_register_ok hreg) fun _ ⟨hrsp, _, hkept⟩ => ⟨hrsp, hkept⟩
  · have hfind : (s.writeEntry k (newEntry dir serial)).find dir serial = some k := by
      rw [State.find_writeNew hnone (State.freeIndex_eq_some hfree).1, if_pos ⟨rfl, rfl⟩]
    exact ⟨_, _, _, _, exec_track_of_register_ok hreg, ⟨rfl, rfl⟩,
      exec_track_of_register_ok (State.register_of_find_eq_some hfind), ⟨rfl, rfl⟩, rfl, ⟨rfl, rfl⟩⟩
  · exact secondIssue_of_answer (exec_track_of_register_error hreg) fun _ ⟨hrsp, _, hkept⟩ => ⟨hrsp, hkept⟩

/-! ### SEQ_NEXT and SEND -/

/-- What SEQ_NEXT does, and SEND once its command is recognised: allocate a number and answer with it (R102, R120). -/
def allocateThen (serial : Serial) (result : Byte → ByteString) (s : State) : Result :=
  match s.allocate serial with
  | .error st => raise st s
  | .ok (v, s') => finish (result v) s'

theorem exec_seqNext_eq (serial : Serial) (s : State) :
    exec (.seqNext serial) s = allocateThen serial (resultQ serial) s := rfl

theorem exec_send_of_recognised {cmd : Byte} (h : recognised cmd = true) (serial : Serial) (opt : Byte) (s : State) :
    exec (.send serial cmd opt) s = allocateThen serial (fun v => resultF (buildFrame serial v cmd opt)) s := by
  rw [exec, execSend, if_pos h]
  rfl

theorem exec_send_of_not_recognised {cmd : Byte} (h : ¬ recognised cmd = true) (serial : Serial) (opt : Byte)
    (s : State) : exec (.send serial cmd opt) s = raise .badCommand s := by
  rw [exec, execSend, if_neg h]

theorem allocateThen_of_lastOf_eq_none {s : State} {serial : Serial} (result : Byte → ByteString)
    (h : s.lastOf .outgoing serial = none) : allocateThen serial result s = raise .unknownSerial s := by
  rw [allocateThen, State.allocate, Option.map_eq_none_iff.1 h]

/-- The number allocated is the one after `last`, and it is the new `last`. -/
theorem allocateThen_of_lastOf_eq_some {s : State} {serial : Serial} {l : Byte} (result : Byte → ByteString)
    (h : s.lastOf .outgoing serial = some l) :
    ∃ t, allocateThen serial result s = .next t ∧ s.Answers t (response .ok (result (l + 1))) ∧
      t.lastOf .outgoing serial = some (l + 1) := by
  obtain ⟨k, hfind, rfl⟩ := Option.map_eq_some_iff.1 h
  refine ⟨(s.writeLast k (s.readLast k + 1)).answer _, ?_, ⟨rfl, rfl⟩, ?_⟩
  · rw [allocateThen, State.allocate, hfind]
    rfl
  · exact (State.lastOf_writeLast hfind _ _ _).trans (if_pos ⟨rfl, rfl⟩)

theorem secondIssue_of_allocateThen {i : Instr} {serial : Serial} {result : Byte → ByteString} {pos : Nat}
    (hi : ∀ s, exec i s = allocateThen serial result s) (hpos : ∀ v, byteAt (response .ok (result v)) pos = v)
    (s : State) : SecondIssue i s (ByFirstStatus s (CounterAdvanced s serial pos)) := by
  cases hl : s.lastOf .outgoing serial with
  | none => exact secondIssue_of_raise ((hi s).trans (allocateThen_of_lastOf_eq_none result hl)) (by decide) _
  | some l =>
    obtain ⟨t, ht, hans, hlt⟩ := allocateThen_of_lastOf_eq_some result hl
    obtain ⟨u, hu, hans', hlu⟩ := allocateThen_of_lastOf_eq_some result hlt
    refine ⟨t, u, _, _, (hi s).trans ht, hans, (hi t).trans hu, hans', fun _ => ?_, fun hne => absurd rfl hne⟩
    exact ⟨rfl, by rw [hpos, hpos], by rw [hl, hlt]; rfl, by rw [hlt, hlu]; rfl⟩

theorem secondIssue_seqNext (serial : Serial) (s : State) :
    SecondIssue (.seqNext serial) s (ByFirstStatus s (CounterAdvanced s serial 4)) :=
  secondIssue_of_allocateThen (exec_seqNext_eq serial) (fun _ => rfl) s

theorem secondIssue_send (serial : Serial) (cmd opt : Byte) (s : State) :
    SecondIssue (.send serial cmd opt) s (ByFirstStatus s (CounterAdvanced s serial 13)) := by
  by_cases hcmd : recognised cmd = true
  · exact secondIssue_of_allocateThen (exec_send_of_recognised hcmd serial opt) (fun _ => rfl) s
  · exact secondIssue_of_raise (exec_send_of_not_recognised hcmd serial opt s) (by decide) _

/-! ### SEQ_CHECK and RECV -/

/-- What SEQ_CHECK does, and RECV once its frame is read: test a number and record it if fresh (R104, R122). -/
def acceptThen (serial : Serial) (q : Byte) (result : ByteString) (s : State) : Result :=
  match s.accept serial q with
  | .error st => raise st s
  | .ok s' => finish result s'

theorem exec_seqCheck_eq (serial : Serial) (q : Byte) (s : State) :
    exec (.seqCheck serial q) s = acceptThen serial q (resultQ serial q) s := rfl

theorem exec_recv_of_readFrame_ok {raw : ByteString} {p : Packet} (h : readFrame (realign raw) = .ok p) (s : State) :
    exec (.recv raw) s = acceptThen p.serial p.sequence (resultP p) s := by
  rw [exec, execRecv, h]
  rfl

theorem exec_recv_of_readFrame_error {raw : ByteString} {st : Status} (h : readFrame (realign raw) = .error st)
    (s : State) : exec (.recv raw) s = raise st s := by
  rw [exec, execRecv, h]

theorem readFrame_error_ne_ok {f : ByteString} {st : Status} (h : readFrame f = .error st) : st ≠ .ok := by
  rcases readFrame_cases f with ⟨_, hf⟩ | ⟨_, _, hf⟩ | ⟨_, _, _, hf⟩ | ⟨_, _, _, hf⟩ <;> cases hf.symm.trans h <;> decide

theorem acceptThen_of_accept_ok {s s' : State} {serial : Serial} {q : Byte} (result : ByteString)
    (h : s.accept serial q = .ok s') : acceptThen serial q result s = finish result s' := by
  rw [acceptThen, h]

theorem acceptThen_of_accept_error {s : State} {serial : Serial} {q : Byte} {st : Status} (result : ByteString)
    (h : s.accept serial q = .error st) : acceptThen serial q result s = raise st s := by
  rw [acceptThen, h]

/-- The number recorded last is stale (R105). -/
theorem State.accept_of_lastOf_self {s : State} {serial : Serial} {q : Byte}
    (h : s.lastOf .incoming serial = some q) : s.accept serial q = .error .staleSequence := by
  obtain ⟨k, hfind, rfl⟩ := Option.map_eq_some_iff.1 h
  rw [State.accept, hfind]
  exact if_pos (stale_self _)

theorem secondIssue_of_acceptThen {i : Instr} {serial : Serial} {q : Byte} {result : ByteString}
    (hi : ∀ s, exec i s = acceptThen serial q result s) (s : State) :
    SecondIssue i s (ByFirstStatus s FoundStale) := by
  rcases s.accept_cases serial q with ⟨_, ha⟩ | ⟨k, _, _, ha⟩ | ⟨k, hfind, _, ha⟩
  · exact secondIssue_of_raise ((hi s).trans (acceptThen_of_accept_error result ha)) (by decide) _
  · exact secondIssue_of_raise ((hi s).trans (acceptThen_of_accept_error result ha)) (by decide) _
  · have hlast : (s.writeLast k q).lastOf .incoming serial = some q :=
      (State.lastOf_writeLast hfind q _ _).trans (if_pos ⟨rfl, rfl⟩)
    have hstale : ((s.writeLast k q).answer (response .ok result)).accept serial q = .error .staleSequence :=
      State.accept_of_lastOf_self hlast
    exact ⟨_, _, _, _, (hi s).trans (acceptThen_of_accept_ok result ha), ⟨rfl, rfl⟩,
      (hi _).trans (acceptThen_of_accept_error result hstale), ⟨rfl, rfl⟩, fun _ => ⟨rfl, rfl, rfl⟩,
      fun hne => absurd rfl hne⟩

theorem secondIssue_seqCheck (serial : Serial) (q : Byte) (s : State) :
    SecondIssue (.seqCheck serial q) s (ByFirstStatus s FoundStale) :=
  secondIssue_of_acceptThen (exec_seqCheck_eq serial q) s

theorem secondIssue_recv (raw : ByteString) (s : State) :
    SecondIssue (.recv raw) s (ByFirstStatus s FoundStale) := by
  cases hread : readFrame (realign raw) with
  | error st => exact secondIssue_of_raise (exec_recv_of_readFrame_error hread s) (readFrame_error_ne_ok hread) _
  | ok p => exact secondIssue_of_acceptThen (exec_recv_of_readFrame_ok hread) s

/-- Settles O55: per operation, by what its first issue left in the table. -/
theorem secondIssueOfTheSameRequest : Obligations.SecondIssueOfTheSameRequest := by
  intro i s
  cases i with
  | crc16 data => exact secondIssue_of_lookedUp_eq_none rfl s
  | realign raw => exact secondIssue_of_lookedUp_eq_none rfl s
  | encode serial seq cmd opt => exact secondIssue_of_lookedUp_eq_none rfl s
  | decode raw => exact secondIssue_of_lookedUp_eq_none rfl s
  | track dir serial => exact secondIssue_track dir serial s
  | seqNext serial => exact secondIssue_seqNext serial s
  | seqCheck serial seq => exact secondIssue_seqCheck serial seq s
  | send serial cmd opt => exact secondIssue_send serial cmd opt s
  | recv raw => exact secondIssue_recv raw s

end Sys2Proof.Machine
end

section
/-! PROOFS of the family "encoding": the decoder characterised once. `decode r = .ok i` holds iff `r` is a request, `i`
is well formed, and the bytes of `r` that the format of `i` uses are those of `encode i` (`decode_eq_ok_iff`). That
decoding inverts encoding and the other way round, is total, and ignores the other bytes (O4 to O7) follow from it. -/

namespace Sys2Proof

open Machine

/-! ### Bytes of filled and cut strings -/

/-- The fill reads as the bytes past the end of a string do. -/
@[simp] theorem byteAt_zeroFill (n : Nat) (b : ByteString) (k : Nat) : byteAt (zeroFill n b) k = byteAt b k := by
  rcases lt_or_ge k b.length with hk | hk
  · exact byteAt_append_left _ _ _ hk
  · rw [byteAt, zeroFill, List.getD_append_right _ _ _ _ hk, List.getD_eq_getElem?_getD,
      List.getElem?_getD_replicate_default_eq, byteAt, List.getD_eq_default _ _ hk]

@[simp] theorem byteAt_encode_succ (i : Instr) (k : Nat) : byteAt (encode i) (k + 1) = byteAt i.operandBytes k :=
  byteAt_zeroFill _ _ _

@[simp] theorem byteAt_encode_zero (i : Instr) : byteAt (encode i) 0 = i.opcode := rfl

theorem slice_length {b : ByteString} {start n : Nat} (h : start + n ≤ b.length) : (slice b start n).length = n := by
  rw [slice, List.length_take, List.length_drop]
  omega

theorem byteAt_slice (b : ByteString) (start : Nat) {n k : Nat} (hk : k < n) :
    byteAt (slice b start n) k = byteAt b (start + k) := by
  simp [byteAt, slice, hk]

/-- A cut of a string is `data` iff it has the length and the bytes of `data`. -/
theorem slice_eq_iff {b data : ByteString} {start n : Nat} (h : start + n ≤ b.length) :
    slice b start n = data ↔ data.length = n ∧ ∀ k < n, byteAt b (start + k) = byteAt data k := by
  constructor
  · rintro rfl
    exact ⟨slice_length h, fun k hk => (byteAt_slice b start hk).symm⟩
  · rintro ⟨hlen, hbytes⟩
    refine byteString_ext ((slice_length h).trans hlen.symm) fun k hk => ?_
    rw [slice_length h] at hk
    rw [byteAt_slice b start hk, hbytes k hk]

theorem reqSerial_eq_iff (r : ByteString) (serial : Serial) :
    reqSerial r = serial ↔ [byteAt r 1, byteAt r 2, byteAt r 3] = serialBytes serial := by
  constructor
  · rintro rfl
    exact (serialBytes_assembled _ _ _).symm
  · intro h
    obtain ⟨h1, h2, h3⟩ : _ ∧ _ ∧ _ := by simpa [serialBytes] using h
    rw [reqSerial, h1, h2, h3, be24_extract]

/-! ### What a request carries -/

/-- The operands of an operation are the fields that its format takes from a request (R56, R59). -/
def Instr.ReadFrom (r : ByteString) : Instr → Prop
  | .crc16 data => reqData r = data
  | .realign raw => reqRaw r = raw
  | .encode serial seq cmd opt => reqSerial r = serial ∧ reqSeq r = seq ∧ reqCmd r = cmd ∧ reqOpt r = opt
  | .decode raw => reqRaw r = raw
  | .track _ serial => reqSerial r = serial
  | .seqNext serial => reqSerial r = serial
  | .seqCheck serial seq => reqSerial r = serial ∧ reqSeq r = seq
  | .send serial cmd opt => reqSerial r = serial ∧ reqCmd r = cmd ∧ reqOpt r = opt
  | .recv raw => reqRaw r = raw

/-- In every byte that the format of `i` uses, a string agrees with the request of `i`. -/
def Instr.CarriedBy (r : ByteString) (i : Instr) : Prop :=
  ∀ k ∈ usedBytes i.opcode, byteAt r k = byteAt (Sys2Proof.encode i) k

theorem zero_mem_usedBytes (opcode : Byte) : 0 ∈ usedBytes opcode := by
  unfold usedBytes
  split_ifs <;> decide

theorem Instr.CarriedBy.opcode_eq {r : ByteString} {i : Instr} (h : i.CarriedBy r) : byteAt r 0 = i.opcode :=
  h 0 (zero_mem_usedBytes _)

/-- Formats W and D: the one operand is the `n` bytes after the opcode, and well-formedness is their number. -/
theorem Instr.carriedBy_iff_slice {r : ByteString} {i : Instr} {n : Nat} (hr : r.length = 19) (hn : n ≤ 18)
    (hwf : i.wellFormed = (i.operandBytes.length == n)) (hused : usedBytes i.opcode = List.range (n + 1)) :
    i.wellFormed = true ∧ i.CarriedBy r ↔ byteAt r 0 = i.opcode ∧ slice r 1 n = i.operandBytes := by
  simp only [hwf, beq_iff_eq, Instr.CarriedBy, hused, List.mem_range, Nat.forall_lt_succ_left, byteAt_encode_zero,
    byteAt_encode_succ, slice_eq_iff (show 1 + n ≤ r.length by omega), Nat.add_comm 1]
  exact and_left_comm

/-- Format P: the serial stands after the opcode, and the fields used after it are bytes of their own. -/
theorem Instr.carriedBy_iff_serial {r : ByteString} {i : Instr} {serial : Serial} {fields : ByteString}
    {rest : List Nat} (hwf : i.wellFormed = true) (hused : usedBytes i.opcode = [0, 1, 2, 3] ++ rest)
    (hops : i.operandBytes = serialBytes serial ++ fields) :
    i.wellFormed = true ∧ i.CarriedBy r ↔ byteAt r 0 = i.opcode ∧ reqSerial r = serial ∧
      rest.Forall fun k => byteAt r k = byteAt (Sys2Proof.encode i) k := by
  have hserial : ∀ k < 3, byteAt (Sys2Proof.encode i) (k + 1) = byteAt (serialBytes serial) k := fun k hk => by
    rw [byteAt_encode_succ, hops, byteAt_append_left _ _ _ hk]
  rw [and_iff_right hwf, reqSerial_eq_iff, List.forall_iff_forall_mem, Instr.CarriedBy, hused, List.forall_mem_append]
  simp only [List.forall_mem_cons, byteAt_encode_zero, hserial 0 (by decide), hserial 1 (by decide),
    hserial 2 (by decide)]
  simp [serialBytes, byteAt, and_assoc]

/-- The bytes of an operation stand in a request iff the opcode does and the operands read back. -/
theorem Instr.wellFormed_and_carriedBy_iff {r : ByteString} (hr : r.length = 19) (i : Instr) :
    i.wellFormed = true ∧ i.CarriedBy r ↔ byteAt r 0 = i.opcode ∧ i.ReadFrom r := by
  cases i with
  | crc16 data => exact carriedBy_iff_slice (i := .crc16 data) (n := crcSpan) hr (by decide) rfl rfl
  | realign raw => exact carriedBy_iff_slice (i := .realign raw) (n := rawLen) hr (by decide) rfl rfl
  | decode raw => exact carriedBy_iff_slice (i := .decode raw) (n := rawLen) hr (by decide) rfl rfl
  | recv raw => exact carriedBy_iff_slice (i := .recv raw) (n := rawLen) hr (by decide) rfl rfl
  | encode serial seq cmd opt =>
    exact carriedBy_iff_serial (i := .encode serial seq cmd opt) (rest := [4, 5, 6]) rfl rfl rfl
  | seqCheck serial seq => exact carriedBy_iff_serial (i := .seqCheck serial seq) (rest := [4]) rfl rfl rfl
  | send serial cmd opt => exact carriedBy_iff_serial (i := .send serial cmd opt) (rest := [5, 6]) rfl rfl rfl
  | track dir serial =>
    have hused : usedBytes (Instr.track dir serial).opcode = [0, 1, 2, 3] := by cases dir <;> rfl
    simpa [Instr.ReadFrom] using
      carriedBy_iff_serial (i := .track dir serial) (rest := []) rfl hused (List.append_nil _).symm
  | seqNext serial =>
    simpa [Instr.ReadFrom] using
      carriedBy_iff_serial (i := .seqNext serial) (rest := []) rfl rfl (List.append_nil _).symm

/-! ### The decoder -/

/-- Under an assigned opcode a string holds the operands of an operation of that opcode (R59). -/
theorem exists_readFrom_of_assigned {r : ByteString} (h : byteAt r 0 ∈ assignedOpcodes) :
    ∃ i : Instr, byteAt r 0 = i.opcode ∧ i.ReadFrom r := by
  simp only [assignedOpcodes, List.mem_cons, List.not_mem_nil, or_false] at h
  rcases h with h | h | h | h | h | h | h | h | h | h
  · exact ⟨.crc16 (reqData r), h, rfl⟩
  · exact ⟨.realign (reqRaw r), h, rfl⟩
  · exact ⟨.encode (reqSerial r) (reqSeq r) (reqCmd r) (reqOpt r), h, rfl, rfl, rfl, rfl⟩
  · exact ⟨.decode (reqRaw r), h, rfl⟩
  · exact ⟨.track .outgoing (reqSerial r), h, rfl⟩
  · exact ⟨.track .incoming (reqSerial r), h, rfl⟩
  · exact ⟨.seqNext (reqSerial r), h, rfl⟩
  · exact ⟨.seqCheck (reqSerial r) (reqSeq r), h, rfl, rfl⟩
  · exact ⟨.send (reqSerial r) (reqCmd r) (reqOpt r), h, rfl, rfl, rfl⟩
  · exact ⟨.recv (reqRaw r), h, rfl⟩

/-- Each row is selected by assigned opcodes only. -/
theorem mem_assignedOpcodes_of_selects :
    ∀ opcode : Byte, ∀ row ∈ opcodeMap, row.selects opcode = true → opcode ∈ assignedOpcodes := by
  decide +kernel

theorem filter_selects_of_not_assigned {opcode : Byte} (h : opcode ∉ assignedOpcodes) :
    opcodeMap.filter (fun row => row.selects opcode) = [] :=
  List.filter_eq_nil_iff.2 fun row hrow hsel => h (mem_assignedOpcodes_of_selects opcode row hrow hsel)

theorem length_filter_selects_of_assigned :
    ∀ opcode ∈ assignedOpcodes, (opcodeMap.filter (fun row => row.selects opcode)).length = 1 := by
  decide

theorem decode_of_not_assigned {r : ByteString} (hr : r.length = 19) (h : byteAt r 0 ∉ assignedOpcodes) :
    decode r = .error .badOp := by
  have hnone : opcodeMap.find? (fun row => row.selects (byteAt r 0)) = none :=
    List.find?_eq_none.2 (List.filter_eq_nil_iff.1 (filter_selects_of_not_assigned h))
  rw [decode, if_pos (show r.length = requestLen from hr), hnone]

/-- The operation whose opcode a request has and whose operands it holds is the one decoded (R59). -/
theorem decode_of_readFrom {r : ByteString} {i : Instr} (hr : r.length = 19) (h0 : byteAt r 0 = i.opcode)
    (h : i.ReadFrom r) : decode r = .ok i := by
  cases i with
  | crc16 data => cases h; exact decode_crc16 hr h0
  | realign raw => cases h; exact decode_realign hr h0
  | encode serial seq cmd opt => obtain ⟨rfl, rfl, rfl, rfl⟩ := h; exact decode_encode hr h0
  | decode raw => cases h; exact decode_decode hr h0
  | track dir serial =>
    cases h
    cases dir with
    | outgoing => exact decode_trackOut hr h0
    | incoming => exact decode_trackIn hr h0
  | seqNext serial => cases h; exact decode_seqNext hr h0
  | seqCheck serial seq => obtain ⟨rfl, rfl⟩ := h; exact decode_seqCheck hr h0
  | send serial cmd opt => obtain ⟨rfl, rfl, rfl⟩ := h; exact decode_send hr h0
  | recv raw => cases h; exact decode_recv hr h0

/-- Every assigned opcode is decoded to an operation of that opcode (R60). -/
theorem exists_decode_of_assigned {r : ByteString} (hr : r.length = 19) (h : byteAt r 0 ∈ assignedOpcodes) :
    ∃ i : Instr, decode r = .ok i ∧ byteAt r 0 = i.opcode ∧ i.ReadFrom r := by
  obtain ⟨i, hop, hread⟩ := exists_readFrom_of_assigned h
  exact ⟨i, decode_of_readFrom hr hop hread, hop, hread⟩

theorem length_of_decode_ok {r : ByteString} {i : Instr} (h : decode r = .ok i) : r.length = 19 := by
  by_contra hr
  rw [(decode_eq_notARequest_iff r).2 hr] at h
  cases h

/-- The decoder, whole: it answers `i` on the requests that carry a well-formed `i`, and on no other string. -/
theorem decode_eq_ok_iff (r : ByteString) (i : Instr) :
    decode r = .ok i ↔ r.length = 19 ∧ i.wellFormed = true ∧ i.CarriedBy r := by
  constructor
  · intro h
    have hr := length_of_decode_ok h
    by_cases h0 : byteAt r 0 ∈ assignedOpcodes
    · obtain ⟨j, hj, hop, hread⟩ := exists_decode_of_assigned hr h0
      cases hj.symm.trans h
      exact ⟨hr, (Instr.wellFormed_and_carriedBy_iff hr i).2 ⟨hop, hread⟩⟩
    · cases (decode_of_not_assigned hr h0).symm.trans h
  · rintro ⟨hr, hi⟩
    obtain ⟨hop, hread⟩ := (Instr.wellFormed_and_carriedBy_iff hr i).1 hi
    exact decode_of_readFrom hr hop hread

/-- Requests that agree in the bytes their format uses decode alike (R55). -/
theorem decode_congr {r r' : ByteString} (hr : r.length = 19) (hr' : r'.length = 19)
    (h : ∀ k ∈ usedBytes (byteAt r 0), byteAt r k = byteAt r' k) : decode r = decode r' := by
  by_cases h0 : byteAt r 0 ∈ assignedOpcodes
  · obtain ⟨i, hi, hop, -⟩ := exists_decode_of_assigned hr h0
    obtain ⟨-, hwf, hc⟩ := (decode_eq_ok_iff r i).1 hi
    rw [hop] at h
    rw [hi, (decode_eq_ok_iff r' i).2 ⟨hr', hwf, fun k hk => (h k hk).symm.trans (hc k hk)⟩]
  · have h0' : byteAt r' 0 ∉ assignedOpcodes := h 0 (zero_mem_usedBytes _) ▸ h0
    rw [decode_of_not_assigned hr h0, decode_of_not_assigned hr' h0']

/-! ### The statements about the decoder and the encoder -/

/-- Settles O6: the request of `i` is a request that carries `i`. -/
theorem decodeOfEncodeIsTheOperation : Obligations.DecodeOfEncodeIsTheOperation := fun i hi =>
  (decode_eq_ok_iff _ i).2 ⟨(Laws.encodedShape i hi).1, hi, fun _ _ => rfl⟩

/-- Settles O7: what a request decodes to is what it carries. -/
theorem encodeOfDecodeKeepsUsedBytes : Obligations.EncodeOfDecodeKeepsUsedBytes := by
  intro r i h
  obtain ⟨-, hwf, hc⟩ := (decode_eq_ok_iff r i).1 h
  exact ⟨(Laws.encodedShape i hwf).1, fun k hk => (hc k (hc.opcode_eq ▸ hk)).symm⟩

/-- Settles O4: each opcode selects one row or none, and the step follows the decoder's verdict. -/
theorem requestDecodingIsTotal : Obligations.RequestDecodingIsTotal := by
  intro s r rest hreq
  have hhead : s.requests.head? = some r := by rw [hreq]; rfl
  refine ⟨?assigned, ?unassigned, ?noRequest⟩
  case assigned =>
    rintro ⟨hr, h0⟩
    obtain ⟨i, hi, hop, -⟩ := exists_decode_of_assigned hr h0
    obtain ⟨-, hwf, -⟩ := (decode_eq_ok_iff r i).1 hi
    exact ⟨length_filter_selects_of_assigned _ h0, i, hi, hwf, hop.symm⟩
  case unassigned =>
    rintro ⟨hr, h0⟩
    exact ⟨filter_selects_of_not_assigned h0, s.answer (errorBytes 0x07),
      step_of_decode_error hhead (decode_of_not_assigned hr h0), s.tableKept_answer _, s.answers_answer _⟩
  case noRequest =>
    intro hr
    exact step_of_decode_error hhead ((decode_eq_notARequest_iff r).2 hr)

theorem Machine.State.SameTable.eq {s s' : State} (h : s.SameTable s') (hreq : s.requests = s'.requests)
    (hrsp : s.responses = s'.responses) : s = s' := by
  obtain ⟨hn, htt⟩ := h
  cases s
  cases s'
  cases hn
  cases htt
  cases hreq
  cases hrsp
  rfl

/-- An operation does not read the request it takes. -/
theorem exec_issueFirst_eq (i : Instr) (s : State) (r r' : ByteString) :
    exec i (s.issueFirst r) = exec i (s.issueFirst r') := by
  obtain ⟨t, t', rsp, ht, ht', ⟨hreq, hrsp⟩, ⟨hreq', hrsp'⟩, htable⟩ :=
    sameTable_tableSim.bothAnswer_exec (s := s.issueFirst r) (s' := s.issueFirst r') ⟨rfl, rfl⟩ i
  rw [ht, ht', htable.eq (hreq.trans hreq'.symm) (hrsp.trans hrsp'.symm)]

/-- Settles O5: the requests decode alike, and the operation reads neither. -/
theorem unusedRequestBytesAreIgnored : Obligations.UnusedRequestBytesAreIgnored := by
  intro s r r' hr hr' h
  have hdec := decode_congr hr hr' h
  cases hd : decode r with
  | ok i =>
    rw [step_of_decode_ok rfl hd, step_of_decode_ok rfl (hdec ▸ hd), exec_issueFirst_eq i s r r']
  | error e =>
    rw [step_of_decode_error rfl hd, step_of_decode_error rfl (hdec ▸ hd)]
    cases e <;> rfl

/-- Settles O8: each is an instance of what its opcode decodes to. -/
theorem writtenOutRequestsDecode : Obligations.WrittenOutRequestsDecode :=
  ⟨decode_encode rfl rfl, decode_trackIn rfl rfl, decode_seqCheck rfl rfl, decode_send rfl rfl⟩

end Sys2Proof
end

section
/-! PROOFS of the family "encoding": which raw buffers are frames of this protocol (R64, O32). Realignment moves the
raw stream on by five fixed bits, so the 64 bits of the preamble fix 59 bits of the raw buffer. -/

namespace Sys2Proof

/-! ### Bytes as stream bits -/

theorem byte_eq_iff_streamBit {a b : ByteString} {i : Nat} :
    byteAt a i = byteAt b i ↔ ∀ m < 8, streamBit a (8 * i + m) = streamBit b (8 * i + m) := by
  constructor
  · intro h m hm
    rw [streamBit_eq_getMsbD a hm rfl, streamBit_eq_getMsbD b hm rfl, h]
  · intro h
    refine BitVec.eq_of_getMsbD_eq fun m hm => ?_
    rw [← streamBit_eq_getMsbD a hm rfl, ← streamBit_eq_getMsbD b hm rfl, h m hm]

/-- The first `n` bytes of two strings agree iff their first `8 * n` stream bits do. -/
theorem bytes_eq_iff_streamBits {a b : ByteString} {n : Nat} :
    (∀ i < n, byteAt a i = byteAt b i) ↔ ∀ j < 8 * n, streamBit a j = streamBit b j := by
  simp only [byte_eq_iff_streamBit]
  constructor
  · intro h j hj
    have hbit := h (j / 8) (by omega) (j % 8) (Nat.mod_lt j (by decide))
    rwa [Nat.div_add_mod] at hbit
  · intro h i hi m hm
    exact h _ (by omega)

/-- The top three bits of a byte are the first three of its stream bits. -/
theorem extractTopThree_eq_iff (b : Byte) (v : BitVec 3) :
    b.extractLsb' 5 3 = v ↔ ∀ m < 3, b.getMsbD m = v.getMsbD m := by
  have htop : ∀ m < 3, (b.extractLsb' 5 3).getMsbD m = b.getMsbD m := by
    intro m hm
    interval_cases m <;> simp [BitVec.getMsbD_eq_getLsbD]
  constructor
  · rintro rfl m hm
    exact (htop m hm).symm
  · intro h
    exact BitVec.eq_of_getMsbD_eq fun m hm => (htop m hm).trans (h m hm)

/-! ### The preamble as raw bits -/

/-- The bits of the raw buffer that realign to the preamble, with five bits after them left 0. -/
def rawPreamble : ByteString := [0x67, 0x22, 0x9B, 0xA3, 0x89, 0x26, 0x82, 0x40]

theorem streamBit_preamble_add_five : ∀ j < 59, streamBit preamble (j + 5) = streamBit rawPreamble j := by decide

theorem take_eight_realign_eq_iff (raw : ByteString) :
    (realign raw).take 8 = preamble ↔ ∀ i < 8, byteAt (realign raw) i = byteAt preamble i := by
  have hlen : 0 + 8 ≤ (realign raw).length := by rw [realign_length]; decide
  have hslice := slice_eq_iff (data := preamble) hlen
  simpa [slice, preamble] using hslice

/-- The five bits that realignment puts in front are the first of the preamble (R34, R83). -/
theorem realign_bits_eq_preamble_iff (raw : ByteString) :
    (∀ j < 64, streamBit (realign raw) j = streamBit preamble j) ↔
      ∀ j < 59, streamBit raw j = streamBit rawPreamble j := by
  constructor
  · intro h j hj
    have hbit := h (j + 5) (by omega)
    rwa [streamBit_realign_of_five_le raw (by omega) (by omega), Nat.add_sub_cancel,
      streamBit_preamble_add_five j hj] at hbit
  · intro h j hj
    rcases lt_or_ge j 5 with hj5 | hj5
    · rw [streamBit_realign_of_lt_five raw hj5]
      interval_cases j <;> rfl
    · obtain ⟨k, rfl⟩ := Nat.exists_eq_add_of_le' hj5
      rw [streamBit_realign_of_five_le raw hj5 (by omega), Nat.add_sub_cancel, h k (by omega),
        streamBit_preamble_add_five k (by omega)]

/-- The 59 bits are seven whole bytes and the top three bits of the next. -/
theorem rawPreamble_bits_iff (raw : ByteString) :
    (∀ j < 59, streamBit raw j = streamBit rawPreamble j) ↔
      (∀ i < 7, byteAt raw i = byteAt rawPreamble i) ∧ (byteAt raw 7).extractLsb' 5 3 = 0b010#3 := by
  rw [bytes_eq_iff_streamBits, extractTopThree_eq_iff]
  have hlast : ∀ m < 3, streamBit rawPreamble (8 * 7 + m) = (0b010#3).getMsbD m := by decide
  constructor
  · intro h
    refine ⟨fun j hj => h j (by omega), fun m hm => ?_⟩
    rw [← streamBit_eq_getMsbD raw (by omega) rfl, h _ (by omega), hlast m hm]
  · rintro ⟨hbytes, htop⟩ j hj
    rcases lt_or_ge j (8 * 7) with hj7 | hj7
    · exact hbytes j hj7
    · obtain ⟨m, rfl⟩ := Nat.exists_eq_add_of_le hj7
      rw [streamBit_eq_getMsbD raw (by omega) rfl, htop m (by omega), hlast m (by omega)]

/-- Settles O32: bytes to bits, past the five fixed ones, and back to bytes. -/
theorem oursIffFiftyNineBitsAreFixed : Obligations.OursIffFiftyNineBitsAreFixed := by
  intro raw
  have hbytes : ∀ i < 7, byteAt rawPreamble i = byteAt [0x67, 0x22, 0x9B, 0xA3, 0x89, 0x26, 0x82] i := by decide
  calc (realign raw).take 8 = preamble
    _ ↔ ∀ i < 8, byteAt (realign raw) i = byteAt preamble i := take_eight_realign_eq_iff raw
    _ ↔ ∀ j < 8 * 8, streamBit (realign raw) j = streamBit preamble j := bytes_eq_iff_streamBits
    _ ↔ ∀ j < 59, streamBit raw j = streamBit rawPreamble j := realign_bits_eq_preamble_iff raw
    _ ↔ (∀ i < 7, byteAt raw i = byteAt rawPreamble i) ∧ (byteAt raw 7).extractLsb' 5 3 = 0b010#3 :=
      rawPreamble_bits_iff raw
    _ ↔ _ := and_congr_left' (forall₂_congr fun i hi => by rw [hbytes i hi])

end Sys2Proof
end

section
/-! PROOFS of the family "codec": the checksum. One shift of the register is linear and one-to-one, so a byte passed
through the register is both in the pair of register and byte; the algebra of whole strings follows by induction over
them (O22 to O25). -/

namespace Sys2Proof

/-! ### One shift of the register -/

/-- What a shift folds back into the register, by the bit that decides it. -/
def feedback (bit : Bool) : Half := if bit then crcPoly else 0

theorem feedback_xor (a b : Bool) : feedback (a ^^ b) = feedback a ^^^ feedback b := by
  cases a <;> cases b <;> rfl

theorem crcShift_eq (c : Half) : crcShift c = (c <<< 1) ^^^ feedback (c.getLsbD 15) := by
  rw [crcShift, feedback]
  split <;> simp

theorem crcShift_xor (c d : Half) : crcShift (c ^^^ d) = crcShift c ^^^ crcShift d := by
  rw [crcShift_eq, crcShift_eq c, crcShift_eq d, BitVec.getLsbD_xor, feedback_xor, BitVec.shiftLeft_xor_distrib]
  ac_rfl

/-- The polynomial has bit 0, which the shift alone leaves clear: a register that shifts to 0 had no feedback. -/
theorem top_clear_of_crcShift_eq_zero {c : Half} (h : crcShift c = 0#16) : c.getLsbD 15 = false := by
  cases htop : c.getLsbD 15 with
  | false => rfl
  | true =>
    have hlow : (crcShift c).getLsbD 0 = true := by
      rw [crcShift_eq, htop, BitVec.getLsbD_xor, BitVec.getLsbD_shiftLeft]
      rfl
    rw [h] at hlow
    cases hlow

theorem crcShift_eq_zero {c : Half} (h : crcShift c = 0#16) : c = 0#16 := by
  have htop := top_clear_of_crcShift_eq_zero h
  have hshift : c <<< 1 = 0#16 := by
    rwa [crcShift_eq, htop, show feedback false = 0#16 from rfl, BitVec.xor_zero] at h
  refine BitVec.eq_of_getLsbD_eq fun i hi => ?_
  rcases eq_or_ne i 15 with rfl | hne
  · exact htop
  · have hbit : (c <<< 1).getLsbD (i + 1) = c.getLsbD i := by
      rw [BitVec.getLsbD_shiftLeft]
      simp [show i + 1 < 16 by omega]
    rw [← hbit, hshift]
    simp

theorem crcShift_injective : Function.Injective crcShift := by
  intro c d h
  refine BitVec.xor_eq_zero_iff.1 (crcShift_eq_zero ?_)
  rw [crcShift_xor, h, BitVec.xor_self]

/-! ### Shifts in a row -/

theorem repeat_crcShift_xor (n : Nat) (c d : Half) :
    Nat.repeat crcShift n (c ^^^ d) = Nat.repeat crcShift n c ^^^ Nat.repeat crcShift n d := by
  induction n with
  | zero => rfl
  | succ n ih => rw [Nat.repeat, ih, crcShift_xor, Nat.repeat, Nat.repeat]

theorem repeat_crcShift_injective (n : Nat) : Function.Injective (Nat.repeat crcShift n) := by
  induction n with
  | zero => exact Function.injective_id
  | succ n ih => exact crcShift_injective.comp ih

/-! ### The serial register -/

/-- One step of serial division: the incoming bit and the top bit of the register decide the feedback (R80). -/
def crcBit (c : Half) (bit : Bool) : Half := if c.getLsbD 15 ≠ bit then (c <<< 1) ^^^ 0x1021#16 else c <<< 1

theorem crcBit_eq (c : Half) (bit : Bool) : crcBit c bit = (c <<< 1) ^^^ feedback (c.getLsbD 15 ^^ bit) := by
  rw [crcBit, feedback]
  cases c.getLsbD 15 <;> cases bit <;> simp [crcPoly]

/-- A word added to the register before a shift enters by its top bit; the rest of it stays added. -/
theorem crcShift_xor_eq_crcBit (c y : Half) : crcShift (c ^^^ y) = crcBit c (y.getMsbD 0) ^^^ (y <<< 1) := by
  have htop : y.getMsbD 0 = y.getLsbD 15 := BitVec.getMsbD_eq_getLsbD y 0
  rw [crcShift_xor, crcShift_eq, crcShift_eq, crcBit_eq, htop, feedback_xor]
  ac_rfl

/-- A word added to the register at once has entered bit by bit after as many shifts. -/
theorem repeat_crcShift_xor_eq_foldl (n : Nat) (c y : Half) :
    Nat.repeat crcShift n (c ^^^ y) = ((List.range n).map y.getMsbD).foldl crcBit c ^^^ (y <<< n) := by
  induction n with
  | zero => simp [Nat.repeat]
  | succ n ih =>
    rw [Nat.repeat, ih, crcShift_xor_eq_crcBit, BitVec.getMsbD_shiftLeft, Nat.zero_add, ← BitVec.shiftLeft_add,
      List.range_succ, List.map_append, List.foldl_append]
    rfl

theorem crcByte_eq_foldl (c : Half) (x : Byte) : crcByte c x = ((List.range 8).map x.getMsbD).foldl crcBit c := by
  have hbits : (List.range 8).map (x.setWidth 16 <<< 8).getMsbD = (List.range 8).map x.getMsbD := by
    refine List.map_congr_left fun m hm => ?_
    rw [BitVec.getMsbD_shiftLeft, BitVec.getMsbD_setWidth]
    simp
  have hout : (x.setWidth 16 <<< 8 : Half) <<< 8 = 0#16 := by
    rw [← BitVec.shiftLeft_add, BitVec.shiftLeft_eq_zero (by decide)]
  rw [crcByte, repeat_crcShift_xor_eq_foldl, hbits, hout, BitVec.xor_zero]

/-- The stream of a string is the eight bits of its first byte and then the stream of the rest. -/
theorem streamBits_cons (x : Byte) (b : ByteString) :
    streamBits (x :: b) = (List.range 8).map x.getMsbD ++ streamBits b := by
  rw [streamBits, List.length_cons, Nat.mul_succ, Nat.add_comm, List.range_add, List.map_append, List.map_map]
  have hrest : ∀ j ∈ List.range (8 * b.length), (streamBit (x :: b) ∘ fun j => 8 + j) j = streamBit b j := by
    intro j _
    simp [streamBit, byteAt]
  rw [List.map_congr_left hrest]
  rfl

theorem foldl_crcByte_eq_foldl_crcBit (b : ByteString) (c : Half) :
    b.foldl crcByte c = (streamBits b).foldl crcBit c := by
  induction b generalizing c with
  | nil => rfl
  | cons x b ih => rw [List.foldl_cons, ih, crcByte_eq_foldl, streamBits_cons, List.foldl_append]

theorem crc16_eq_foldl (b : ByteString) : crc16 b = b.foldl crcByte crcInit := BitVec.xor_zero

/-- Settles O23: bit by bit within a byte, and byte by byte along the string. -/
theorem checksumIsSerialOverTheBitStream : Obligations.ChecksumIsSerialOverTheBitStream := fun b =>
  (crc16_eq_foldl b).trans (foldl_crcByte_eq_foldl_crcBit b crcInit)

/-! ### Linearity -/

theorem crcByte_xor (c d : Half) (x y : Byte) : crcByte (c ^^^ d) (x ^^^ y) = crcByte c x ^^^ crcByte d y := by
  rw [crcByte, crcByte, crcByte, ← repeat_crcShift_xor, BitVec.setWidth_xor, BitVec.shiftLeft_xor_distrib]
  congr 1
  ac_rfl

theorem foldl_crcByte_zipWith_xor {a b : ByteString} (h : a.length = b.length) (c d : Half) :
    (List.zipWith (· ^^^ ·) a b).foldl crcByte (c ^^^ d) = a.foldl crcByte c ^^^ b.foldl crcByte d := by
  induction a generalizing b c d with
  | nil => 
    cases b with
    | nil => rfl
    | cons y b => cases h
  | cons x a ih =>
    cases b with
    | nil => cases h
    | cons y b =>
      rw [List.zipWith_cons_cons, List.foldl_cons, crcByte_xor, ih (Nat.succ.inj h), List.foldl_cons, List.foldl_cons]

theorem zipWith_xor_zeros (b : ByteString) : List.zipWith (· ^^^ ·) b (List.replicate b.length 0) = b := by
  induction b with
  | nil => rfl
  | cons x b ih =>
    have hx : x ^^^ 0 = x := BitVec.xor_zero
    rw [List.length_cons, List.replicate_succ, List.zipWith_cons_cons, ih, hx]

/-- Settles O24: three strings through the register together; the initial value enters three times, which is once. -/
theorem checksumIsLinear : Obligations.ChecksumIsLinear := by
  intro a b h
  have hinit : crcInit = crcInit ^^^ crcInit ^^^ crcInit := by rw [BitVec.xor_self, BitVec.zero_xor]
  have hlen : (List.zipWith (· ^^^ ·) a b).length = a.length := by simp [h]
  calc crc16 (List.zipWith (· ^^^ ·) a b)
    _ = (List.zipWith (· ^^^ ·) (List.zipWith (· ^^^ ·) a b) (List.replicate a.length 0)).foldl crcByte
          (crcInit ^^^ crcInit ^^^ crcInit) := by
      rw [← hinit, ← hlen, zipWith_xor_zeros, crc16_eq_foldl]
    _ = crc16 a ^^^ crc16 b ^^^ crc16 (List.replicate a.length 0) := by
      rw [foldl_crcByte_zipWith_xor (by simp [h]), foldl_crcByte_zipWith_xor h]
      simp only [crc16_eq_foldl]

/-! ### One changed byte -/

theorem crcByte_left_injective (x : Byte) : Function.Injective (crcByte · x) := fun _ _ h =>
  (BitVec.xor_left_inj _).1 (repeat_crcShift_injective 8 h)

theorem crcByte_right_injective (c : Half) : Function.Injective (crcByte c) := by
  intro x y h
  have hword : x.setWidth 16 <<< 8 = y.setWidth 16 <<< 8 :=
    (BitVec.xor_right_inj c).1 (repeat_crcShift_injective 8 h)
  refine BitVec.eq_of_getMsbD_eq fun m hm => ?_
  have hbit := congrArg (BitVec.getMsbD · m) hword
  simpa [BitVec.getMsbD_shiftLeft, BitVec.getMsbD_setWidth] using hbit

theorem foldl_crcByte_injective (b : ByteString) : Function.Injective (b.foldl crcByte) := by
  induction b with
  | nil => exact Function.injective_id
  | cons x b ih => exact ih.comp (crcByte_left_injective x)

/-- The register differs after a changed byte, and equal bytes never bring it back. -/
theorem foldl_crcByte_set_ne {b : ByteString} {i : Nat} {y : Byte} (hi : i < b.length) (hy : y ≠ byteAt b i)
    (c : Half) : (b.set i y).foldl crcByte c ≠ b.foldl crcByte c := by
  induction b generalizing i c with
  | nil => exact absurd hi (Nat.not_lt_zero i)
  | cons x b ih =>
    cases i with
    | zero => exact fun h => hy (crcByte_right_injective c (foldl_crcByte_injective b h))
    | succ i => exact ih (Nat.lt_of_succ_lt_succ hi) hy (crcByte c x)

theorem crc16_set_ne {b : ByteString} {i : Nat} {y : Byte} (hi : i < b.length) (hy : y ≠ byteAt b i) :
    crc16 (b.set i y) ≠ crc16 b := by
  rw [crc16_eq_foldl, crc16_eq_foldl]
  exact foldl_crcByte_set_ne hi hy crcInit

/-- An inverted bit makes another byte. -/
theorem xor_streamMask_ne (x : Byte) {m : Nat} (hm : m < 8) : x ^^^ (0x80#8 >>> m) ≠ x := by
  have hmask : ∀ m < 8, 0x80#8 >>> m ≠ 0#8 := by decide
  intro h
  exact hmask m hm ((BitVec.xor_right_inj x).1 (h.trans BitVec.xor_zero.symm))

/-- Settles O25: the inverted bit changes one byte. -/
theorem singleBitChangeMovesTheChecksum : Obligations.SingleBitChangeMovesTheChecksum := fun _ j hj =>
  crc16_set_ne (Nat.div_lt_of_lt_mul hj) (xor_streamMask_ne _ (Nat.mod_lt j (by decide)))

/-! ### Fixed points -/

/-- Settles O22: the procedure run on each string. -/
theorem checksumFixedPoints : Obligations.ChecksumFixedPoints := by
  unfold Obligations.ChecksumFixedPoints
  decide +kernel

end Sys2Proof
end

section
/-! PROOFS of the family "codec": realignment and the wire. `oversample` drops the first five stream bits of a frame and
`realign` puts five fixed ones in their place, so a frame comes back with its first five bits as R82 fixes them (O29 to
O31). -/

namespace Sys2Proof

/-! ### The bytes of the realigned string -/

theorem byteAt_realign_zero (raw : ByteString) : byteAt (realign raw) 0 = 0x50#8 ||| (byteAt raw 0 >>> 5) :=
  byteAt_realign raw 0 (by decide)

/-- The last five bits of a byte, moved to the top (R82). -/
theorem lowFive_eq (x : Byte) :
    (((x >>> 1) &&& 0x0F#8) <<< 4) ||| ((x &&& 0x01#8) <<< 3) = (x &&& 0x1F#8) <<< 3 := by
  refine BitVec.eq_of_getLsbD_eq fun m hm => ?_
  interval_cases m <;> simp

theorem realignByte_succ (raw : ByteString) (i : Nat) :
    realignByte raw (i + 1) = ((byteAt raw i &&& 0x1F#8) <<< 3) ||| (byteAt raw (i + 1) >>> 5) := by
  rw [realignByte, lowFive_eq]

/-- Settles O29: the two parts of R82's formula that come from one raw byte are its last five bits. -/
theorem realignEqualsItsShorterForm : Obligations.RealignEqualsItsShorterForm := by
  refine fun raw => ⟨byteAt_realign_zero raw, fun i hi hi' => ?_⟩
  obtain ⟨k, rfl⟩ := Nat.exists_eq_add_of_le' hi
  rw [byteAt_realign raw (k + 1) (by omega), realignByte_succ, Nat.add_sub_cancel]

theorem realign_congr {raw raw' : ByteString} (h : ∀ i < 16, byteAt raw i = byteAt raw' i)
    (hlast : byteAt raw 16 >>> 5 = byteAt raw' 16 >>> 5) : realign raw = realign raw' := by
  have hshift : ∀ i < 17, byteAt raw i >>> 5 = byteAt raw' i >>> 5 := by
    intro i hi
    rcases Nat.lt_succ_iff_lt_or_eq.1 hi with hlt | rfl
    · rw [h i hlt]
    · exact hlast
  refine List.map_congr_left fun i hi => ?_
  have hi' : i < 17 := List.mem_range.1 hi
  cases i with
  | zero => rw [realignByte, realignByte, hshift 0 hi']
  | succ i => rw [realignByte_succ, realignByte_succ, h i (by omega), hshift (i + 1) hi']

/-- The first realigned byte as a number: the three raw bits count up from `0x50`. -/
theorem toNat_byteAt_realign_zero (raw : ByteString) :
    (byteAt (realign raw) 0).toNat = 0x50 + ((byteAt raw 0).extractLsb' 5 3).toNat := by
  have hlt := (byteAt raw 0).isLt
  have htop : (byteAt raw 0).toNat / 32 < 2 ^ 3 := by omega
  rw [byteAt_realign_zero, BitVec.toNat_or, BitVec.toNat_ushiftRight, BitVec.extractLsb'_toNat,
    Nat.shiftRight_eq_div_pow, Nat.mod_eq_of_lt htop]
  exact (Nat.shiftLeft_add_eq_or_of_lt htop 10).symm

/-- Settles O30: the formula reads 16 raw bytes and the top three bits of the next, and its first byte is a sum. -/
theorem realignIgnoresTheTrailingBits : Obligations.RealignIgnoresTheTrailingBits := by
  refine ⟨fun raw raw' h hlast => realign_congr h hlast, fun raw => ?_⟩
  have hfirst := toNat_byteAt_realign_zero raw
  have hlt := ((byteAt raw 0).extractLsb' 5 3).isLt
  refine ⟨by omega, by omega, ?_⟩
  rw [← BitVec.toNat_inj, ← BitVec.toNat_inj, hfirst]
  exact Nat.add_left_cancel_iff (n := 0x50) (m := _) (k := 3)

/-! ### The bits of an oversampled frame -/

/-- A byte of the raw buffer: the last three bits of one byte of the frame, then the first five of the next. -/
theorem getMsbD_oversampleByte (f : ByteString) (pad : BitVec 13) {i m : Nat} (hi : i < 16) (hm : m < 8) :
    (oversampleByte f pad i).getMsbD m =
      if m < 3 then (byteAt f i).getMsbD (m + 5) else (byteAt f (i + 1)).getMsbD (m - 3) := by
  rw [oversampleByte, if_pos hi]
  interval_cases m <;> simp [BitVec.getMsbD_eq_getLsbD]

/-- The last three bits of the frame are in front of the filler. -/
theorem getMsbD_oversampleByte_last (f : ByteString) (pad : BitVec 13) {m : Nat} (hm : m < 3) :
    (oversampleByte f pad 16).getMsbD m = (byteAt f 16).getMsbD (m + 5) := by
  rw [oversampleByte, if_neg (by decide), if_pos rfl]
  interval_cases m <;> simp [BitVec.getMsbD_eq_getLsbD]

/-- The raw stream is the frame's from its sixth bit on (R34). -/
theorem streamBit_oversample (f : ByteString) (pad : BitVec 13) {j : Nat} (hj : j < 131) :
    streamBit (oversample f pad) j = streamBit f (j + 5) := by
  rw [streamBit, byteAt_oversample f pad (j / 8) (by omega)]
  rcases Nat.lt_or_ge (j / 8) 16 with hi | hi
  · rw [getMsbD_oversampleByte f pad hi (Nat.mod_lt j (by decide))]
    split
    next => exact (streamBit_eq_getMsbD f (by omega) (by omega)).symm
    next => exact (streamBit_eq_getMsbD f (by omega) (by omega)).symm
  · rw [show j / 8 = 16 by omega, getMsbD_oversampleByte_last f pad (by omega)]
    exact (streamBit_eq_getMsbD f (by omega) (by omega)).symm

/-- What comes back from the wire: the one frame with the five fixed bits and, after them, the bits sent. -/
theorem realign_oversample_eq {f g : ByteString} (pad : BitVec 13) (hlen : f.length = 17)
    (hfirst : ∀ j < 5, streamBit f j = (0x50#8).getMsbD j)
    (hrest : ∀ j, 5 ≤ j → j < 136 → streamBit f j = streamBit g j) : realign (oversample g pad) = f := by
  have hbits : ∀ j < 8 * 17, streamBit (realign (oversample g pad)) j = streamBit f j := by
    intro j hj
    rcases Nat.lt_or_ge j 5 with hj5 | hj5
    · rw [streamBit_realign_of_lt_five _ hj5, hfirst j hj5]
    · rw [streamBit_realign_of_five_le _ hj5 hj, streamBit_oversample g pad (by omega), Nat.sub_add_cancel hj5,
        hrest j hj5 hj]
  refine byteString_ext ((realign_length _).trans hlen.symm) ?_
  rw [realign_length]
  exact bytes_eq_iff_streamBits.2 hbits

/-! ### Changed bytes and bits of a frame -/

theorem byteAt_set {b : ByteString} {i : Nat} (hi : i < b.length) (y : Byte) (k : Nat) :
    byteAt (b.set i y) k = if k = i then y else byteAt b k := by
  rcases eq_or_ne k i with rfl | hne
  · simp [byteAt, hi]
  · simp [byteAt, hne, hne.symm]

theorem byteAt_set_self {b : ByteString} {i : Nat} (hi : i < b.length) (y : Byte) : byteAt (b.set i y) i = y := by
  rw [byteAt_set hi, if_pos rfl]

/-- Inverting one stream bit leaves the others. -/
theorem streamBit_flipStreamBit_of_ne {b : ByteString} {j k : Nat} (hj : j < 8 * b.length) (hne : k ≠ j) :
    streamBit (flipStreamBit b j) k = streamBit b k := by
  have hmask : ∀ m < 8, ∀ m' < 8, m' ≠ m → (0x80#8 >>> m).getMsbD m' = false := by decide
  rw [streamBit, flipStreamBit, byteAt_set (Nat.div_lt_of_lt_mul hj)]
  split
  next hk =>
    rw [BitVec.getMsbD_xor, hmask (j % 8) (by omega) (k % 8) (by omega) (by omega), Bool.xor_false, ← hk, streamBit]
  next => rfl

/-- The fixed five bits are those of the byte `0x50`. -/
theorem getMsbD_of_topFive {x : Byte} (h : x.extractLsb' 3 5 = 0b01010#5) {m : Nat} (hm : m < 5) :
    x.getMsbD m = (0x50#8).getMsbD m := by
  have htop : (x.extractLsb' 3 5).getMsbD m = x.getMsbD m := by
    interval_cases m <;> simp [BitVec.getMsbD_eq_getLsbD]
  rw [← htop, h]
  interval_cases m <;> rfl

/-- A byte under the five fixed bits keeps its last three. -/
theorem getMsbD_fixedFive (x : Byte) {m : Nat} (hm : m < 8) :
    (0x50#8 ||| (x &&& 0x07#8)).getMsbD m = if m < 5 then (0x50#8).getMsbD m else x.getMsbD m := by
  interval_cases m <;> simp [BitVec.getMsbD_eq_getLsbD]

/-- Settles O31: both frames begin with the five fixed bits and go on with the bits sent. -/
theorem realignInvertsOversample : Obligations.RealignInvertsOversample := by
  intro f pad hlen
  have hpos : 0 < f.length := by omega
  constructor
  · refine realign_oversample_eq pad (by rw [List.length_set, hlen]) (fun j hj => ?_) (fun j hj hj' => ?_)
    · rw [streamBit_eq_getMsbD _ (i := 0) (m := j) (by omega) (by omega), byteAt_set_self hpos,
        getMsbD_fixedFive _ (by omega), if_pos hj]
    · rw [streamBit, byteAt_set hpos]
      split
      next hzero =>
        rw [getMsbD_fixedFive _ (Nat.mod_lt j (by decide)), if_neg (by omega), streamBit, hzero]
      next => rfl
  · intro htop
    refine realign_oversample_eq pad hlen (fun j hj => ?_) (fun _ _ _ => rfl)
    rw [streamBit_eq_getMsbD _ (i := 0) (m := j) (by omega) (by omega), getMsbD_of_topFive htop hj]

end Sys2Proof
end

section
/-! PROOFS of the family "codec": what the four codec operations answer (O26, O27, O33, O34), and the way from ENCODE
over the wire to DECODE, with every bit right (O35) or one inverted (O36). -/

namespace Sys2Proof

/-! ### The parts of a frame after a changed byte -/

theorem slice_zero_set (b : ByteString) (n i : Nat) (y : Byte) : slice (b.set i y) 0 n = (slice b 0 n).set i y :=
  List.take_set

theorem slice_zero_set_of_le {n i : Nat} (h : n ≤ i) (b : ByteString) (y : Byte) :
    slice (b.set i y) 0 n = slice b 0 n :=
  List.take_set_of_le h

theorem set_ne_self {b : ByteString} {i : Nat} {y : Byte} (hi : i < b.length) (hy : y ≠ byteAt b i) :
    b.set i y ≠ b := by
  intro h
  rw [← byteAt_set_self hi y, h] at hy
  exact hy rfl

theorem be16_inj {h l h' l' : Byte} (heq : be16 h l = be16 h' l') : h = h' ∧ l = l' := by
  have hbytes := congrArg halfBytes heq
  rw [halfBytes_assembled, halfBytes_assembled] at hbytes
  simpa using hbytes

/-- The checksum a frame carries is that of its first 15 bytes (R86). -/
abbrev ChecksumRight (f : ByteString) : Prop := crc16 (slice f 0 crcSpan) = be16 (byteAt f 15) (byteAt f 16)

/-- No two frames with the right checksum differ in one byte alone. -/
theorem ChecksumRight.not_set {f : ByteString} {i : Nat} {y : Byte} (h : ChecksumRight f) (hlen : f.length = 17)
    (hi : i < 17) (hy : y ≠ byteAt f i) : ¬ ChecksumRight (f.set i y) := by
  intro h'
  have hi' : i < f.length := by omega
  rw [ChecksumRight] at h h'
  rcases Nat.lt_or_ge i crcSpan with hhead | htail
  · have hne15 : 15 ≠ i := hhead.ne'
    have hne16 : 16 ≠ i := (Nat.lt_succ_of_lt hhead).ne'
    have hlt : i < (slice f 0 crcSpan).length := by rwa [slice_length (by rw [hlen]; decide)]
    rw [slice_zero_set, byteAt_set hi', byteAt_set hi', if_neg hne15, if_neg hne16, ← h] at h'
    refine crc16_set_ne hlt ?_ h'
    rwa [byteAt_slice f 0 hhead, Nat.zero_add]
  · rw [slice_zero_set_of_le htail, h] at h'
    obtain ⟨h15, h16⟩ := be16_inj h'
    have htail' : i = 15 ∨ i = 16 := by
      have : 15 ≤ i := htail
      omega
    rcases htail' with rfl | rfl
    · exact hy (h15.trans (byteAt_set_self hi' y)).symm
    · exact hy (h16.trans (byteAt_set_self hi' y)).symm

theorem checksumRight_buildFrame (serial : Serial) (seq cmd opt : Byte) :
    ChecksumRight (buildFrame serial seq cmd opt) :=
  (be16_extract _).symm

namespace Machine

/-! ### What an operation answers -/

theorem raise_eq (st : Status) (s : State) : raise st s = .next (s.answer (errorBytes st.code)) := rfl

theorem finish_zeroFill (result : ByteString) (s : State) :
    finish (zeroFill resultLen result) s = .next (s.answer (okBytes result)) := rfl

/-- A result of 17 bytes fills the response. -/
theorem okBytes_of_length {result : ByteString} (h : result.length = 17) : okBytes result = 0x00 :: result := by
  rw [okBytes, h, Nat.sub_self, List.replicate_zero, List.append_nil]

/-- An operation that only answers keeps the table. -/
theorem answers_of_exec_eq {i : Instr} {s : State} {rsp : ByteString} (h : exec i s = .next (s.answer rsp)) :
    ∃ t : State, exec i s = .next t ∧ s.TableKept t ∧ s.Answers t rsp :=
  ⟨_, h, s.tableKept_answer rsp, s.answers_answer rsp⟩

/-- Format W takes everything after the opcode. -/
theorem reqRaw_eq {r : ByteString} (h : r.length = 19) : reqRaw r = r.drop 1 := by
  rw [reqRaw, slice, List.take_of_length_le]
  rw [List.length_drop, h, rawLen]

theorem exec_crc16_eq (data : ByteString) (s : State) :
    exec (.crc16 data) s = .next (s.answer (okBytes (halfBytes (crc16 data)))) := rfl

theorem exec_realign_eq (raw : ByteString) (s : State) :
    exec (.realign raw) s = .next (s.answer (0x00 :: realign raw)) := by
  rw [← okBytes_of_length (realign_length raw)]
  rfl

theorem exec_encode_of_recognised {cmd : Byte} (h : recognised cmd = true) (serial : Serial) (seq opt : Byte)
    (s : State) :
    exec (.encode serial seq cmd opt) s = .next (s.answer (okBytes (buildFrame serial seq cmd opt))) := by
  rw [exec, execEncode, if_pos h, resultF, finish_zeroFill]

theorem exec_encode_of_not_recognised {cmd : Byte} (h : ¬ recognised cmd = true) (serial : Serial) (seq opt : Byte)
    (s : State) : exec (.encode serial seq cmd opt) s = .next (s.answer (errorBytes 0x03)) := by
  rw [exec, execEncode, if_neg h, raise_eq]
  rfl

/-- The response of DECODE, by what the receive checks make of the realigned frame. -/
def decodeResponse (f : ByteString) : ByteString :=
  match readFrame f with
  | .error st => errorBytes st.code
  | .ok p => okBytes (serialBytes p.serial ++ [p.sequence, p.command, p.options])

theorem exec_decode_eq (raw : ByteString) (s : State) :
    exec (.decode raw) s = .next (s.answer (decodeResponse (realign raw))) := by
  rw [exec, execDecode, decodeResponse]
  cases readFrame (realign raw) <;> rfl

theorem decodeResponse_of_readFrame_ok {f : ByteString} {p : Packet} (h : readFrame f = .ok p) :
    decodeResponse f = okBytes (serialBytes p.serial ++ [p.sequence, p.command, p.options]) := by
  rw [decodeResponse, h]

theorem decodeResponse_of_readFrame_error {f : ByteString} {st : Status} (h : readFrame f = .error st) :
    decodeResponse f = errorBytes st.code := by
  rw [decodeResponse, h]

/-- The checks of R86 in their order, each with its response. -/
theorem decodeResponse_eq (f : ByteString) :
    decodeResponse f =
      if slice f 0 8 ≠ preamble then errorBytes 0x01
      else if ¬ ChecksumRight f then errorBytes 0x02
      else if ¬ recognised (byteAt f 13) = true then errorBytes 0x03
      else okBytes [byteAt f 8, byteAt f 9, byteAt f 10, byteAt f 12, byteAt f 13, byteAt f 14] := by
  rcases readFrame_cases f with ⟨hp, hf⟩ | ⟨hp, hc, hf⟩ | ⟨hp, hc, hr, hf⟩ | ⟨hp, hc, hr, hf⟩
  · rw [decodeResponse_of_readFrame_error hf, if_pos hp]
    rfl
  · rw [decodeResponse_of_readFrame_error hf, if_neg (not_not_intro hp), if_pos hc]
    rfl
  · rw [decodeResponse_of_readFrame_error hf, if_neg (not_not_intro hp), if_neg (not_not_intro hc),
      if_pos (Bool.not_eq_true _ ▸ hr)]
    rfl
  · rw [decodeResponse_of_readFrame_ok hf, if_neg (not_not_intro hp), if_neg (not_not_intro hc),
      if_neg (not_not_intro hr), framePacket, serialBytes_assembled]
    rfl

theorem decodeResponse_buildFrame {cmd : Byte} (h : recognised cmd = true) (serial : Serial) (seq opt : Byte) :
    decodeResponse (buildFrame serial seq cmd opt) = okBytes (serialBytes serial ++ [seq, cmd, opt]) := by
  rw [decodeResponse_of_readFrame_ok (readFrame_buildFrame serial seq cmd opt h)]

/-! ### The statements about the four operations -/

/-- Settles O26: the row of the opcode, the completed response, and three strings through the procedure. -/
theorem crc16AnswersTheChecksum : Obligations.Crc16AnswersTheChecksum := by
  refine ⟨fun r hr h => decode_crc16 hr h, fun data s => answers_of_exec_eq (exec_crc16_eq data s), ?_⟩
  decide +kernel

/-- Settles O27: realignment answers 17 bytes whatever it is given, and reads 17. -/
theorem realignAnswersTheRealignedBytes : Obligations.RealignAnswersTheRealignedBytes := by
  refine ⟨fun r hr h => ?_, fun raw s => ?_, fun raw raw' h => ?_, ?_⟩
  · rw [decode_realign hr h, reqRaw_eq hr]
  · obtain ⟨t, ht, hkept, hans⟩ := answers_of_exec_eq (exec_realign_eq raw s)
    exact ⟨t, ht, hkept, hans, realign_length raw⟩
  · exact realign_congr (fun i hi => h i (by omega)) (by rw [h 16 (by decide)])
  · decide +kernel

/-- Settles O33: by the command test. -/
theorem encodeAnswersTheFrame : Obligations.EncodeAnswersTheFrame := by
  refine ⟨fun r hr h => decode_encode hr h, fun serial seq cmd opt s => ?_⟩
  apply answers_of_exec_eq
  by_cases hcmd : recognised cmd = true
  · rw [if_pos ((recognised_iff cmd).1 hcmd)]
    exact exec_encode_of_recognised hcmd serial seq opt s
  · rw [if_neg (fun h => hcmd ((recognised_iff cmd).2 h))]
    exact exec_encode_of_not_recognised hcmd serial seq opt s

theorem checksumRight_iff (f : ByteString) :
    ChecksumRight f ↔ (crc16 (f.take 15)).toNat = (byteAt f 15).toNat * 256 + (byteAt f 16).toNat := by
  rw [← toNat_be16, BitVec.toNat_inj]
  rfl

/-- Settles O34: the if-chain of the receive checks, with checksum and command read as numbers. -/
theorem decodeReportsTheFirstFailedCheck : Obligations.DecodeReportsTheFirstFailedCheck := by
  refine ⟨fun r hr h => ?_, fun raw s => answers_of_exec_eq ?_⟩
  · rw [decode_decode hr h, reqRaw_eq hr]
  · rw [exec_decode_eq, decodeResponse_eq]
    simp only [checksumRight_iff, recognised_iff]
    rfl

/-! ### Over the wire -/

theorem streamBit_buildFrame_of_lt_five (serial : Serial) (seq cmd opt : Byte) {j : Nat} (hj : j < 5) :
    streamBit (buildFrame serial seq cmd opt) j = (0x50#8).getMsbD j := by
  have hfirst : ∀ j < 5, (0x53#8).getMsbD j = (0x50#8).getMsbD j := by decide
  rw [← hfirst j hj]
  exact streamBit_eq_getMsbD _ (i := 0) (by omega) (by omega)

/-- Settles O35: the frame comes back from the wire as it was built, and is read as it was built. -/
theorem decodeOfEncodedFrameIsThePacket : Obligations.DecodeOfEncodedFrameIsThePacket := by
  intro serial seq cmd opt pad s t frame h1 h6 hexec hrsp
  have hcmd : recognised cmd = true := (recognised_iff cmd).2 ⟨h1, h6⟩
  rw [exec_encode_of_recognised hcmd, okBytes_of_length (buildFrame_length serial seq cmd opt)] at hexec
  cases hexec
  obtain rfl : buildFrame serial seq cmd opt = frame := by simpa using hrsp
  have hwire : realign (oversample (buildFrame serial seq cmd opt) pad) = buildFrame serial seq cmd opt :=
    realign_oversample_eq pad (buildFrame_length serial seq cmd opt)
      (fun _ hj => streamBit_buildFrame_of_lt_five serial seq cmd opt hj) (fun _ _ _ => rfl)
  apply answers_of_exec_eq
  rw [exec_decode_eq, hwire, decodeResponse_buildFrame hcmd]

/-- A frame with one bit inverted comes back right if the bit is one of the first five, and as it was sent if not. -/
theorem realign_oversample_flipStreamBit (serial : Serial) (seq cmd opt : Byte) (pad : BitVec 13) {j : Nat}
    (hj : j < 136) :
    realign (oversample (flipStreamBit (buildFrame serial seq cmd opt) j) pad) =
      if j < 5 then buildFrame serial seq cmd opt else flipStreamBit (buildFrame serial seq cmd opt) j := by
  split
  next hj5 =>
    exact realign_oversample_eq pad (buildFrame_length serial seq cmd opt)
      (fun _ hk => streamBit_buildFrame_of_lt_five serial seq cmd opt hk)
      (fun k hk _ => (streamBit_flipStreamBit_of_ne hj (by omega)).symm)
  next hj5 =>
    refine realign_oversample_eq pad ?_ (fun k hk => ?_) (fun _ _ _ => rfl)
    · rw [flipStreamBit, List.length_set, buildFrame_length]
    · rw [streamBit_flipStreamBit_of_ne hj (by omega), streamBit_buildFrame_of_lt_five serial seq cmd opt hk]

/-- The receive checks on a built frame with one byte changed: in the preamble, or after it. -/
theorem decodeResponse_set_buildFrame (serial : Serial) (seq cmd opt : Byte) {i : Nat} {y : Byte} (hi : i < 17)
    (hy : y ≠ byteAt (buildFrame serial seq cmd opt) i) :
    decodeResponse ((buildFrame serial seq cmd opt).set i y) =
      if i < 8 then errorBytes 0x01 else errorBytes 0x02 := by
  have hpre : slice (buildFrame serial seq cmd opt) 0 8 = preamble := rfl
  have hsum := (checksumRight_buildFrame serial seq cmd opt).not_set (buildFrame_length serial seq cmd opt) hi hy
  rw [decodeResponse_eq]
  rcases Nat.lt_or_ge i 8 with hi8 | hi8
  · have hbyte : byteAt preamble i = byteAt (buildFrame serial seq cmd opt) i := by
      rw [← hpre, byteAt_slice _ 0 hi8, Nat.zero_add]
    rw [if_pos hi8, slice_zero_set, hpre, if_pos (set_ne_self hi8 (hbyte ▸ hy))]
  · rw [if_neg (Nat.not_lt.2 hi8), slice_zero_set_of_le hi8, if_neg (not_not_intro hpre), if_pos hsum]

/-- Settles O36: where the wire does not restore the bit, it has changed one byte. -/
theorem singleBitErrorVerdict : Obligations.SingleBitErrorVerdict := by
  intro serial seq cmd opt pad j s h1 h6 hj
  have hcmd : recognised cmd = true := (recognised_iff cmd).2 ⟨h1, h6⟩
  apply answers_of_exec_eq
  rw [exec_decode_eq, realign_oversample_flipStreamBit serial seq cmd opt pad hj]
  split
  next => rw [decodeResponse_buildFrame hcmd]
  next =>
    rw [flipStreamBit, decodeResponse_set_buildFrame serial seq cmd opt (by omega)
      (xor_streamMask_ne _ (Nat.mod_lt j (by decide)))]
    simp only [Nat.div_lt_iff_lt_mul (show 0 < 8 by decide)]

end Machine

end Sys2Proof
end

section
/-! PROOFS of the family "tracker operations": the replay window as arithmetic (R105; O42, O43). -/

namespace Sys2Proof

/-- The replay test is on how far `s` is behind `l`, mod 256. -/
theorem stale_iff_behind (l s : Byte) : stale l s = true ↔ (l - s).toNat < 64 :=
  decide_eq_true_iff

theorem stale_iff_exists_sub (l s : Byte) : stale l s = true ↔ ∃ d : Nat, d < 64 ∧ s = l - BitVec.ofNat 8 d := by
  rw [stale_iff_behind]
  constructor
  · intro h
    exact ⟨(l - s).toNat, h, by rw [BitVec.ofNat_toNat, BitVec.setWidth_eq, sub_sub_cancel]⟩
  · rintro ⟨d, hd, rfl⟩
    rw [sub_sub_cancel, BitVec.toNat_ofNat]
    omega

/-- A number is fresh iff it is 1 to 192 ahead of `l`, mod 256. -/
theorem stale_eq_false_iff_ahead (l s : Byte) : stale l s = false ↔ 1 ≤ (s - l).toNat ∧ (s - l).toNat ≤ 192 := by
  rw [stale_eq_false_iff, BitVec.toNat_sub]
  omega

/-- Settles O42: the distances behind and ahead of `L`, and the remainder mod 256 taken in each of the two forms. -/
theorem staleIsTheSixtyFourValueWindow : Obligations.StaleIsTheSixtyFourValueWindow := by
  intro l s
  refine ⟨stale_iff_exists_sub l s, fun hunwrapped => ?_, fun hwrapped => ?_, stale_eq_false_iff_ahead l s⟩
  · rw [stale_iff]
    omega
  · rw [stale_iff]
    omega

/-- The stale values of `l`, from `l` down to `l - 63` mod 256. -/
def staleValues (l : Byte) : List Nat := (List.range 64).map fun d => (l - BitVec.ofNat 8 d).toNat

theorem mem_staleValues_iff (l : Byte) (n : Nat) :
    n ∈ staleValues l ↔ n < 256 ∧ stale l (BitVec.ofNat 8 n) = true := by
  simp only [staleValues, List.mem_map, List.mem_range, stale_iff_exists_sub]
  constructor
  · rintro ⟨d, hd, rfl⟩
    exact ⟨BitVec.isLt _, d, hd, by rw [BitVec.ofNat_toNat, BitVec.setWidth_eq]⟩
  · rintro ⟨hn, d, hd, h⟩
    exact ⟨d, hd, by rw [← h, BitVec.toNat_ofNat, Nat.mod_eq_of_lt hn]⟩

/-- Fewer than 256 steps down from `l` do not meet a value twice. -/
theorem staleValues_nodup (l : Byte) : (staleValues l).Nodup := by
  refine List.Nodup.map_on (fun d hd d' hd' h => ?_) List.nodup_range
  rw [List.mem_range] at hd hd'
  have hstep : BitVec.ofNat 8 d = BitVec.ofNat 8 d' := sub_right_injective (BitVec.eq_of_toNat_eq h)
  have hmod : d % 256 = d' % 256 := congrArg BitVec.toNat hstep
  omega

/-- Settles O43: the stale values counted from 0 up are those counted from `L` down. -/
theorem sixtyFourValuesAreStale : Obligations.SixtyFourValuesAreStale := by
  intro l
  have hperm : ((List.range 256).filter fun n => stale l (BitVec.ofNat 8 n)).Perm (staleValues l) :=
    (List.perm_ext_iff_of_nodup (List.nodup_range.filter _) (staleValues_nodup l)).2 fun n => by
      rw [List.mem_filter, List.mem_range, mem_staleValues_iff]
  rw [hperm.length_eq, staleValues, List.length_map, List.length_range]

end Sys2Proof
end

section
/-! PROOFS of the family "tracker operations": the look-up (O16), the devices an operation leaves alone (O18), and what
TRACK, SEQ_NEXT, SEQ_CHECK and a repeated RECV answer and write (O38 to O41, O44, O45, O52). Each way an operation can
go is one equation `exec i s = .next (…)`, from which the statements are read off. -/

namespace Sys2Proof.Machine

/-! ### Looking a device up -/

theorem State.KeysUnique.find_eq_some_iff {s : State} (h : s.KeysUnique) (dir : Dir) (serial : Serial) (k : Nat) :
    s.find dir serial = some k ↔ s.Holds k dir serial := by
  refine ⟨State.find_holds, fun hk => ?_⟩
  obtain ⟨j, hj⟩ := State.exists_find_of_holds hk
  rw [hj, h j k dir serial (State.find_holds hj) hk]

/-- Settles O16: the first entry that holds the device is the only one. -/
theorem findIsTheMatchingEntry : Obligations.FindIsTheMatchingEntry :=
  fun s dir serial h => ⟨h.find_eq_some_iff dir serial, s.find_eq_none_iff dir serial⟩

/-- Settles O18: of the updates an operation is made of, a written `last` and a registration change the map at the
device looked up alone. -/
theorem otherDevicesAreUntouched : Obligations.OtherDevicesAreUntouched := by
  intro i s t dir serial h hother
  rcases exec_cases i s with ⟨st, _, he⟩ | ⟨result, _, he⟩ | ⟨d, n, k, v, result, _, hlooked, hfind, _, he⟩ |
    ⟨d, n, k, rfl, hnone, hfree, he⟩ <;> cases he.symm.trans h
  case inl | inr.inl => rfl
  case inr.inr.inl =>
    refine (State.lastOf_writeLast hfind v dir serial).trans (if_neg ?_)
    rintro ⟨rfl, rfl⟩
    exact hother hlooked
  case inr.inr.inr =>
    refine (State.lastOf_writeNew hnone (State.freeIndex_eq_some hfree).1 dir serial).trans (if_neg ?_)
    rintro ⟨rfl, rfl⟩
    exact hother rfl

/-! ### What a written entry and a response say -/

theorem State.entryWritten_writeEntry (s : State) (k : Nat) (e : Entry) : s.EntryWritten (s.writeEntry k e) k e :=
  ⟨rfl, (s.entry_writeEntry k k e).trans (if_pos rfl), fun j hj => (s.entry_writeEntry k j e).trans (if_neg hj)⟩

theorem State.LastWritten.trans {s t u : State} {k : Nat} {v w : Byte} (h : s.LastWritten t k v)
    (h' : t.LastWritten u k w) : s.LastWritten u k w := by
  obtain ⟨hn, hk, hother⟩ := h
  obtain ⟨hn', hk', hother'⟩ := h'
  exact ⟨hn'.trans hn, by rw [hk', hk], fun j hj => (hother' j hj).trans (hother j hj)⟩

theorem State.LastWritten.last_eq {s t : State} {k : Nat} {v : Byte} (h : s.LastWritten t k v) :
    (t.entry k).last = v := by
  rw [h.2.1]

/-- Writing what an entry holds already changes no entry. -/
theorem State.lastWritten_self (s : State) (k : Nat) : s.LastWritten s k (s.entry k).last :=
  ⟨rfl, rfl, fun _ _ => rfl⟩

/-- An operation that writes one `last` and answers. -/
theorem lastWritten_of_exec_eq {i : Instr} {s : State} {k : Nat} {v : Byte} {rsp : ByteString}
    (h : exec i s = .next ((s.writeLast k v).answer rsp)) :
    ∃ t : State, exec i s = .next t ∧ s.LastWritten t k v ∧ s.Answers t rsp :=
  ⟨_, h, s.lastWritten_writeLast k v, rfl, rfl⟩

/-- A completed operation and a failed one are told apart by the status. -/
theorem okBytes_ne_errorBytes {code : Byte} (h : code ≠ 0x00) (result : ByteString) :
    okBytes result ≠ errorBytes code :=
  fun heq => h (List.cons.inj heq).1.symm

/-! ### TRACK -/

theorem State.freeIndex_eq_some_of_lowest {s : State} {k : Nat} (hk : k < s.nTrack) (hfree : (s.entry k).valid = false)
    (hlow : ∀ j, j < k → (s.entry j).valid = true) : s.freeIndex = some k := by
  cases hf : s.freeIndex with
  | none =>
    obtain ⟨hfull, hvalid⟩ := State.freeIndex_eq_none hf
    rw [hvalid k (by omega)] at hfree
    cases hfree
  | some j =>
    obtain ⟨hjfree, hjlow, _⟩ := State.freeIndex_eq_some hf
    rcases lt_trichotomy j k with hjk | rfl | hkj
    · rw [hlow j hjk] at hjfree
      cases hjfree
    · rfl
    · rw [hjlow k hkj] at hfree
      cases hfree

theorem State.freeIndex_eq_none_of_full {s : State} (hcap : s.tt.length ≤ s.nTrack)
    (hfull : ∀ k, k < s.nTrack → (s.entry k).valid = true) : s.freeIndex = none := by
  cases hf : s.freeIndex with
  | none => rfl
  | some j =>
    obtain ⟨hfree, _, _, hroom⟩ := State.freeIndex_eq_some hf
    rw [hfull j (by omega)] at hfree
    cases hfree

theorem exec_track_of_present {s : State} {dir : Dir} {serial : Serial} {k : Nat} (h : s.Holds k dir serial) :
    exec (.track dir serial) s = .next (s.answer (okBytes [])) := by
  obtain ⟨j, hfind⟩ := State.exists_find_of_holds h
  exact exec_track_of_register_ok (State.register_of_find_eq_some hfind)

theorem exec_track_of_free {s : State} {dir : Dir} {serial : Serial} {k : Nat} (hnone : s.find dir serial = none)
    (hfree : s.freeIndex = some k) :
    exec (.track dir serial) s = .next ((s.writeEntry k (newEntry dir serial)).answer (okBytes [])) :=
  exec_track_of_register_ok (by rw [State.register, hnone, hfree])

theorem exec_track_of_full {s : State} {dir : Dir} {serial : Serial} (hnone : s.find dir serial = none)
    (hfull : s.freeIndex = none) : exec (.track dir serial) s = .next (s.answer (errorBytes 0x06)) :=
  exec_track_of_register_error (by rw [State.register, hnone, hfull])

/-- Settles O38: a device is present or not, and then the table has a lowest free entry or is full. -/
theorem trackRegistersInTheLowestFreeEntry : Obligations.TrackRegistersInTheLowestFreeEntry := by
  refine ⟨fun r hr => ⟨decode_trackOut hr, decode_trackIn hr⟩, fun s dir serial hcap => ⟨?present, ?free, ?full⟩⟩
  case present =>
    rintro ⟨k, hk⟩
    exact answers_of_exec_eq (exec_track_of_present hk)
  case free =>
    intro habsent k hk hfree hlow
    exact ⟨_, exec_track_of_free ((s.find_eq_none_iff dir serial).2 habsent)
      (State.freeIndex_eq_some_of_lowest hk hfree hlow), s.entryWritten_writeEntry k _, rfl, rfl⟩
  case full =>
    intro habsent hfull
    exact answers_of_exec_eq (exec_track_of_full ((s.find_eq_none_iff dir serial).2 habsent)
      (State.freeIndex_eq_none_of_full hcap hfull))

/-- A TRACK answered `OK` leaves an entry that holds the device. -/
theorem exists_holds_of_track_ok {s t : State} {dir : Dir} {serial : Serial}
    (h : exec (.track dir serial) s = .next t) (hok : t.responses = s.responses ++ [okBytes []]) :
    ∃ k, t.Holds k dir serial := by
  rcases s.register_cases dir serial with ⟨k, hfind, _⟩ | ⟨k, hnone, hfree, _⟩ | ⟨hnone, hfull, _⟩
  · have hk := State.find_holds hfind
    cases (exec_track_of_present hk).symm.trans h
    exact ⟨k, hk⟩
  · cases (exec_track_of_free hnone hfree).symm.trans h
    exact ⟨k, (s.holds_writeNew k k dir dir serial serial (State.freeIndex_eq_some hfree).1).2 (.inr ⟨rfl, rfl, rfl⟩)⟩
  · cases (exec_track_of_full hnone hfull).symm.trans h
    have hrsp : errorBytes 0x06 = okBytes [] := by simpa using hok
    exact absurd hrsp.symm (okBytes_ne_errorBytes (by decide) [])

/-- Settles O39: the second TRACK finds the entry the first one left. -/
theorem secondTrackDoesNotClear : Obligations.SecondTrackDoesNotClear := by
  intro s t dir serial h hok
  obtain ⟨k, hk⟩ := exists_holds_of_track_ok h hok
  exact ⟨k, hk, fun u hu => answers_of_exec_eq (exec_track_of_present hu)⟩

/-! ### SEQ_NEXT -/

/-- Allocation from the entry found: the next number is stored there and answered (R102). -/
theorem allocateThen_of_find_eq_some {s : State} {serial : Serial} {k : Nat} (result : Byte → ByteString)
    (h : s.find .outgoing serial = some k) :
    allocateThen serial result s =
      finish (result ((s.entry k).last + 1)) (s.writeLast k ((s.entry k).last + 1)) := by
  rw [allocateThen, State.allocate, h]
  rfl

theorem exec_seqNext_of_find_eq_some {s : State} {serial : Serial} {k : Nat} (h : s.find .outgoing serial = some k) :
    exec (.seqNext serial) s = .next ((s.writeLast k ((s.entry k).last + 1)).answer
      (okBytes (serialBytes serial ++ [(s.entry k).last + 1]))) :=
  allocateThen_of_find_eq_some (resultQ serial) h

theorem exec_seqNext_of_find_eq_none {s : State} {serial : Serial} (h : s.find .outgoing serial = none) :
    exec (.seqNext serial) s = .next (s.answer (errorBytes 0x04)) :=
  allocateThen_of_lastOf_eq_none (resultQ serial) (by rw [State.lastOf, h, Option.map_none])

/-- Settles O40: by what `find` answers. -/
theorem seqNextAdvancesTheCounter : Obligations.SeqNextAdvancesTheCounter := by
  refine ⟨fun r hr h => decode_seqNext hr h, fun s serial => ⟨fun k hfind => ?known, fun hnone => ?unknown⟩⟩
  case known =>
    obtain ⟨t, ht⟩ := lastWritten_of_exec_eq (exec_seqNext_of_find_eq_some hfind)
    exact ⟨t, (s.entry k).last + 1, BitVec.toNat_add _ _, ht⟩
  case unknown => exact answers_of_exec_eq (exec_seqNext_of_find_eq_none hnone)

theorem step_of_encoded_seqNext {s : State} {serial : Serial} (h : s.requests.head? = some (encode (.seqNext serial))) :
    step s = exec (.seqNext serial) s :=
  step_of_decode_ok h (decodeOfEncodeIsTheOperation (.seqNext serial) rfl)

/-- Counting on from the number after `l` is counting on from `l`, one further. -/
theorem ofNat_toNat_add_one_add (l : Byte) (m : Nat) :
    BitVec.ofNat 8 ((l + 1).toNat + m) = BitVec.ofNat 8 (l.toNat + (m + 1)) := by
  rw [BitVec.ofNat_add, BitVec.ofNat_add, BitVec.ofNat_add, BitVec.ofNat_toNat, BitVec.ofNat_toNat,
    BitVec.setWidth_eq, BitVec.setWidth_eq, add_assoc, add_comm 1]
  rfl

/-- The answers to `n` SEQ_NEXT requests for a serial whose `last` is `l`. -/
def seqNextAnswers (serial : Serial) (l : Byte) (n : Nat) : List ByteString :=
  (List.range n).map fun m => okBytes (serialBytes serial ++ [BitVec.ofNat 8 (l.toNat + m + 1)])

theorem seqNextAnswers_succ (serial : Serial) (l : Byte) (n : Nat) :
    seqNextAnswers serial l (n + 1) =
      okBytes (serialBytes serial ++ [l + 1]) :: seqNextAnswers serial (l + 1) n := by
  have hfirst : BitVec.ofNat 8 (l.toNat + 0 + 1) = l + 1 := by
    rw [Nat.add_zero, BitVec.ofNat_add, BitVec.ofNat_toNat, BitVec.setWidth_eq]
    rfl
  rw [seqNextAnswers, List.range_succ_eq_map, List.map_cons, List.map_map, hfirst]
  congr 1
  refine List.map_congr_left fun m _ => ?_
  rw [Function.comp_apply, Nat.add_assoc (l + 1).toNat, ofNat_toNat_add_one_add]
  rfl

/-- Settles O41, by induction on the number of requests: the first step leaves the entry found with the number after
`last`, and the others count on from there. -/
theorem successiveSeqNextCountsModulo256 : Obligations.SuccessiveSeqNextCountsModulo256 := by
  intro n k serial
  induction n with
  | zero =>
    intro s _ hreq
    refine ⟨s, rfl, ?_, hreq, by simp⟩
    rw [Nat.add_zero, BitVec.ofNat_toNat, BitVec.setWidth_eq]
    exact s.lastWritten_self k
  | succ n ih =>
    intro s hfind hreq
    obtain ⟨t, ht, hwritten, htreq, htrsp⟩ := lastWritten_of_exec_eq (exec_seqNext_of_find_eq_some hfind)
    have hstep : step s = .next t := (step_of_encoded_seqNext (by rw [hreq]; rfl)).trans ht
    obtain ⟨u, hrun, hlast, hdone, hursp⟩ := ih t ((State.find_of_lastWritten hwritten .outgoing serial).trans hfind)
      (by rw [htreq, hreq]; rfl)
    rw [hwritten.last_eq] at hlast hursp
    rw [ofNat_toNat_add_one_add] at hlast
    refine ⟨u, (run_succ_of_next hstep n).trans hrun, hwritten.trans hlast, hdone, ?_⟩
    calc u.responses
        = t.responses ++ seqNextAnswers serial ((s.entry k).last + 1) n := hursp
      _ = s.responses ++ seqNextAnswers serial (s.entry k).last (n + 1) := by
        rw [htrsp, List.append_assoc, List.singleton_append, seqNextAnswers_succ]

/-! ### SEQ_CHECK -/

theorem acceptThen_of_fresh {s : State} {serial : Serial} {q : Byte} {k : Nat} (result : ByteString)
    (h : s.find .incoming serial = some k) (hfresh : stale (s.entry k).last q = false) :
    acceptThen serial q result s = finish result (s.writeLast k q) := by
  apply acceptThen_of_accept_ok
  rw [State.accept, h]
  exact if_neg (Bool.eq_false_iff.1 hfresh)

theorem acceptThen_of_stale {s : State} {serial : Serial} {q : Byte} {k : Nat} (result : ByteString)
    (h : s.find .incoming serial = some k) (hstale : stale (s.entry k).last q = true) :
    acceptThen serial q result s = raise .staleSequence s := by
  apply acceptThen_of_accept_error
  rw [State.accept, h]
  exact if_pos hstale

theorem acceptThen_of_find_eq_none {s : State} {serial : Serial} (q : Byte) (result : ByteString)
    (h : s.find .incoming serial = none) : acceptThen serial q result s = raise .unknownSerial s :=
  acceptThen_of_accept_error result (by rw [State.accept, h])

theorem exec_seqCheck_of_fresh {s : State} {serial : Serial} {q : Byte} {k : Nat}
    (h : s.find .incoming serial = some k) (hfresh : stale (s.entry k).last q = false) :
    exec (.seqCheck serial q) s = .next ((s.writeLast k q).answer (okBytes (serialBytes serial ++ [q]))) :=
  acceptThen_of_fresh (resultQ serial q) h hfresh

theorem exec_seqCheck_of_stale {s : State} {serial : Serial} {q : Byte} {k : Nat}
    (h : s.find .incoming serial = some k) (hstale : stale (s.entry k).last q = true) :
    exec (.seqCheck serial q) s = .next (s.answer (errorBytes 0x05)) :=
  acceptThen_of_stale (resultQ serial q) h hstale

theorem exec_seqCheck_of_find_eq_none {s : State} {serial : Serial} (q : Byte) (h : s.find .incoming serial = none) :
    exec (.seqCheck serial q) s = .next (s.answer (errorBytes 0x04)) :=
  acceptThen_of_find_eq_none q (resultQ serial q) h

/-- Settles O44: by what `find` answers, and by the replay test on the entry found. -/
theorem seqCheckAcceptsExactlyTheFresh : Obligations.SeqCheckAcceptsExactlyTheFresh := by
  refine ⟨fun r hr h => decode_seqCheck hr h, fun s serial q =>
    ⟨fun k hfind hdist => ?fresh, fun k hfind hdist => ?stale, fun hnone => ?unknown⟩⟩
  case fresh => exact lastWritten_of_exec_eq (exec_seqCheck_of_fresh hfind ((stale_eq_false_iff _ q).2 hdist))
  case stale => exact answers_of_exec_eq (exec_seqCheck_of_stale hfind ((stale_iff _ q).2 hdist))
  case unknown => exact answers_of_exec_eq (exec_seqCheck_of_find_eq_none q hnone)

theorem stale_add_eq_false_iff (l : Byte) {d : Nat} (hd : d < 256) :
    stale l (l + BitVec.ofNat 8 d) = false ↔ 1 ≤ d ∧ d ≤ 192 := by
  rw [stale_eq_false_iff_ahead, add_sub_cancel_left, BitVec.toNat_ofNat, Nat.mod_eq_of_lt hd]

/-- Settles O45: a number `d` ahead is accepted iff it is fresh; a stale one is answered with another status. -/
theorem lossOf191FramesIsTolerated : Obligations.LossOf191FramesIsTolerated := by
  intro s t serial k d hfind hd h
  rw [← stale_add_eq_false_iff (s.entry k).last hd]
  constructor
  · rintro ⟨_, hans⟩
    by_contra hstale
    cases (exec_seqCheck_of_stale hfind (Bool.not_eq_false _ ▸ hstale)).symm.trans h
    exact okBytes_ne_errorBytes (by decide) _ (hans.response_unique (s.answers_answer _))
  · intro hfresh
    obtain ⟨u, hu, hwritten⟩ := lastWritten_of_exec_eq (exec_seqCheck_of_fresh hfind hfresh)
    cases hu.symm.trans h
    exact hwritten

/-! ### Further copies of a frame -/

/-- RECV reads its buffer through realignment only. -/
theorem exec_recv_congr {raw raw' : ByteString} (h : realign raw' = realign raw) (s : State) :
    exec (.recv raw') s = exec (.recv raw) s := by
  rw [exec, exec, execRecv, execRecv, h]

/-- Settles O52: a copy with the same realigned bytes is a second issue of the same RECV. -/
theorem secondCopyIsStale : Obligations.SecondCopyIsStale := by
  intro s t raw raw' rsp h hans hok hcopy
  obtain ⟨t', u, rsp', rsp'', ht, hans', hu, hansu, honOk, _⟩ := secondIssue_recv raw s
  cases ht.symm.trans h
  cases hans'.response_unique hans
  obtain ⟨rfl, hkept⟩ := honOk hok
  exact ⟨u, (exec_recv_congr hcopy t).trans hu, hkept, hansu⟩

end Sys2Proof.Machine
end

section
/-! PROOFS of the family "composite operations": SEND (R120, R121; O48, O49). SEND of a recognised command allocates as
SEQ_NEXT does and answers as ENCODE does, so each way it can go is one equation `exec (.send …) s = .next (…)`. -/

namespace Sys2Proof.Machine

/-! ### What SEND answers -/

theorem exec_send_of_bad_command {cmd : Byte} (h : ¬ recognised cmd = true) (serial : Serial) (opt : Byte)
    (s : State) : exec (.send serial cmd opt) s = .next (s.answer (errorBytes 0x03)) :=
  exec_send_of_not_recognised h serial opt s

theorem exec_send_of_find_eq_none {s : State} {serial : Serial} {cmd : Byte} (hcmd : recognised cmd = true) (opt : Byte)
    (h : s.find .outgoing serial = none) :
    exec (.send serial cmd opt) s = .next (s.answer (errorBytes 0x04)) := by
  rw [exec_send_of_recognised hcmd]
  exact allocateThen_of_lastOf_eq_none _ (by rw [State.lastOf, h, Option.map_none])

theorem exec_send_of_find_eq_some {s : State} {serial : Serial} {cmd : Byte} {k : Nat} (hcmd : recognised cmd = true)
    (opt : Byte) (h : s.find .outgoing serial = some k) :
    exec (.send serial cmd opt) s = .next ((s.writeLast k ((s.entry k).last + 1)).answer
      (okBytes (buildFrame serial ((s.entry k).last + 1) cmd opt))) := by
  rw [exec_send_of_recognised hcmd]
  exact allocateThen_of_find_eq_some _ h

/-- Settles O48: the command test, then what `find` answers. -/
theorem sendAdvancesAndBuildsTheFrame : Obligations.SendAdvancesAndBuildsTheFrame := by
  refine ⟨fun r hr h => decode_send hr h, fun s serial cmd opt =>
    ⟨fun hcmd => ?badCommand, fun hcmd hnone => ?unknown, fun hcmd k hfind => ?known⟩⟩
  case badCommand => exact answers_of_exec_eq (exec_send_of_bad_command (mt (recognised_iff cmd).1 hcmd) serial opt s)
  case unknown => exact answers_of_exec_eq (exec_send_of_find_eq_none ((recognised_iff cmd).2 hcmd) opt hnone)
  case known =>
    obtain ⟨t, ht⟩ := lastWritten_of_exec_eq (exec_send_of_find_eq_some ((recognised_iff cmd).2 hcmd) opt hfind)
    exact ⟨t, (s.entry k).last + 1, BitVec.toNat_add _ _, ht⟩

/-! ### SEQ_NEXT, then ENCODE -/

/-- Only the allocation is answered `OK` by SEQ_NEXT, and the number in the answer is the one allocated. -/
theorem seqNext_of_answered_ok {s t : State} {serial : Serial} {v : Byte} (h : exec (.seqNext serial) s = .next t)
    (hok : t.responses = s.responses ++ [okBytes (serialBytes serial ++ [v])]) :
    ∃ k, s.find .outgoing serial = some k ∧ v = (s.entry k).last + 1 ∧
      t = (s.writeLast k v).answer (okBytes (serialBytes serial ++ [v])) := by
  cases hfind : s.find .outgoing serial with
  | none =>
    cases (exec_seqNext_of_find_eq_none hfind).symm.trans h
    have hrsp : errorBytes 0x04 = okBytes (serialBytes serial ++ [v]) := by simpa using hok
    exact absurd hrsp.symm (okBytes_ne_errorBytes (by decide) _)
  | some k =>
    cases (exec_seqNext_of_find_eq_some hfind).symm.trans h
    have hv : (s.entry k).last + 1 = v := by simpa [okBytes] using hok
    exact ⟨k, rfl, hv.symm, by rw [hv]⟩

/-- Only the failed look-up is answered `UnknownSerial` by SEQ_NEXT. -/
theorem seqNext_of_answered_unknown {s t : State} {serial : Serial} (h : exec (.seqNext serial) s = .next t)
    (hunknown : t.responses = s.responses ++ [errorBytes 0x04]) :
    s.find .outgoing serial = none ∧ t = s.answer (errorBytes 0x04) := by
  cases hfind : s.find .outgoing serial with
  | none =>
    cases (exec_seqNext_of_find_eq_none hfind).symm.trans h
    exact ⟨rfl, rfl⟩
  | some k =>
    cases (exec_seqNext_of_find_eq_some hfind).symm.trans h
    have hrsp : okBytes (serialBytes serial ++ [(s.entry k).last + 1]) = errorBytes 0x04 := by simpa using hunknown
    exact absurd hrsp (okBytes_ne_errorBytes (by decide) _)

/-- Settles O49: SEQ_NEXT's answer says what the look-up found, which is what SEND finds after its command test. -/
theorem sendIsSeqNextThenEncode : Obligations.SendIsSeqNextThenEncode := by
  intro s t serial cmd opt ht
  refine ⟨fun hcmd v hok => ?allocated, fun hcmd hunknown => ?unknown, fun hcmd => ⟨?refused, fun v hok => ?advanced⟩⟩
  case allocated =>
    have hrec : recognised cmd = true := (recognised_iff cmd).2 hcmd
    obtain ⟨k, hfind, rfl, rfl⟩ := seqNext_of_answered_ok ht hok
    exact ⟨_, _, _, exec_encode_of_recognised hrec serial _ opt _, exec_send_of_find_eq_some hrec opt hfind,
      State.answers_answer _ _, rfl, ⟨rfl, rfl⟩, rfl, rfl⟩
  case unknown =>
    obtain ⟨hnone, rfl⟩ := seqNext_of_answered_unknown ht hunknown
    exact exec_send_of_find_eq_none ((recognised_iff cmd).2 hcmd) opt hnone
  case refused => exact answers_of_exec_eq (exec_send_of_bad_command (mt (recognised_iff cmd).1 hcmd) serial opt s)
  case advanced =>
    obtain ⟨k, hfind, rfl, rfl⟩ := seqNext_of_answered_ok ht hok
    refine ⟨_, exec_encode_of_not_recognised (mt (recognised_iff cmd).1 hcmd) serial _ opt _,
      State.tableKept_answer _ _, State.answers_answer _ _, ?before, ?after⟩
    case before => rw [State.lastOf, hfind, Option.map_some, add_sub_cancel_right, State.readLast]
    case after => exact (State.lastOf_writeLast hfind _ .outgoing serial).trans (if_pos ⟨rfl, rfl⟩)

end Sys2Proof.Machine
end

section
/-! PROOFS of the family "composite operations": RECV (R122, R123; O50, O51), and the way from SEND over the wire to
RECV (O54). RECV of a frame that passes the receive checks tests and records its number as SEQ_CHECK does. -/

namespace Sys2Proof

/-! ### The receive checks, one by one -/

theorem readFrame_of_not_ours {f : ByteString} (h : slice f 0 8 ≠ preamble) : readFrame f = .error .badPreamble :=
  if_pos h

theorem readFrame_of_not_intact {f : ByteString} (hours : slice f 0 8 = preamble) (h : ¬ ChecksumRight f) :
    readFrame f = .error .badChecksum := by
  rw [readFrame, if_neg (not_not_intro hours), if_pos h]

theorem readFrame_of_not_known {f : ByteString} (hours : slice f 0 8 = preamble) (hintact : ChecksumRight f)
    (h : ¬ recognised (byteAt f 13) = true) : readFrame f = .error .badCommand := by
  rw [readFrame, if_neg (not_not_intro hours), if_neg (not_not_intro hintact), if_neg h]

theorem readFrame_of_known {f : ByteString} (hours : slice f 0 8 = preamble) (hintact : ChecksumRight f)
    (h : recognised (byteAt f 13) = true) : readFrame f = .ok (framePacket f) := by
  rw [readFrame, if_neg (not_not_intro hours), if_neg (not_not_intro hintact), if_pos h]

/-! ### The packet in a response -/

theorem serialBytes_injective : Function.Injective serialBytes := by
  intro a b h
  simp only [serialBytes, List.cons.injEq, and_true] at h
  obtain ⟨hhigh, hmid, hlow⟩ := h
  rw [← be24_extract a, ← be24_extract b, hhigh, hmid, hlow]

namespace Machine

/-- The response that carries a packet (R58, format P). -/
abbrev packetResponse (p : Packet) : ByteString :=
  okBytes (serialBytes p.serial ++ [p.sequence, p.command, p.options])

theorem packetResponse_injective : Function.Injective packetResponse := by
  rintro ⟨serial, q, cmd, opt⟩ ⟨serial', q', cmd', opt'⟩ h
  have hbytes : serialBytes serial = serialBytes serial' ∧ [q, cmd, opt] = [q', cmd', opt'] :=
    List.append_inj (List.append_inj_left (List.cons.inj h).2 rfl) rfl
  obtain ⟨hserial, hrest⟩ := hbytes
  cases serialBytes_injective hserial
  cases hrest
  rfl

theorem packetResponse_framePacket (f : ByteString) :
    packetResponse (framePacket f) =
      okBytes [byteAt f 8, byteAt f 9, byteAt f 10, byteAt f 12, byteAt f 13, byteAt f 14] := by
  rw [packetResponse, framePacket, serialBytes_assembled]
  rfl

/-! ### What RECV answers -/

theorem exec_recv_of_find_eq_none {s : State} {raw : ByteString} {p : Packet} (hread : readFrame (realign raw) = .ok p)
    (h : s.find .incoming p.serial = none) : exec (.recv raw) s = .next (s.answer (errorBytes 0x04)) := by
  rw [exec_recv_of_readFrame_ok hread]
  exact acceptThen_of_find_eq_none p.sequence _ h

theorem exec_recv_of_stale {s : State} {raw : ByteString} {p : Packet} {k : Nat}
    (hread : readFrame (realign raw) = .ok p) (h : s.find .incoming p.serial = some k)
    (hstale : stale (s.entry k).last p.sequence = true) :
    exec (.recv raw) s = .next (s.answer (errorBytes 0x05)) := by
  rw [exec_recv_of_readFrame_ok hread]
  exact acceptThen_of_stale _ h hstale

theorem exec_recv_of_fresh {s : State} {raw : ByteString} {p : Packet} {k : Nat}
    (hread : readFrame (realign raw) = .ok p) (h : s.find .incoming p.serial = some k)
    (hfresh : stale (s.entry k).last p.sequence = false) :
    exec (.recv raw) s = .next ((s.writeLast k p.sequence).answer (packetResponse p)) := by
  rw [exec_recv_of_readFrame_ok hread]
  exact acceptThen_of_fresh _ h hfresh

/-- Settles O50: the checks in their order, then what `find` answers and the replay test on the entry found. -/
theorem recvAcceptsOrReportsTheFirstFailedCheck : Obligations.RecvAcceptsOrReportsTheFirstFailedCheck := by
  refine ⟨fun r hr h => by rw [decode_recv hr h, reqRaw_eq hr], fun raw s => ?_⟩
  intro f serial ours intact known rejects
  have hread (hours : ours) (hintact : intact) (hknown : known) : readFrame f = .ok (framePacket f) :=
    readFrame_of_known hours ((checksumRight_iff f).2 hintact) ((recognised_iff _).2 hknown)
  refine ⟨fun hours => ?notOurs, fun hours hintact => ?notIntact, fun hours hintact hknown => ?notKnown,
    fun hours hintact hknown hnone => ?unknown, fun hours hintact hknown k hfind hdist => ?stale,
    fun hours hintact hknown k hfind hdist => ?fresh⟩
  case notOurs => exact answers_of_exec_eq (exec_recv_of_readFrame_error (readFrame_of_not_ours hours) s)
  case notIntact =>
    exact answers_of_exec_eq
      (exec_recv_of_readFrame_error (readFrame_of_not_intact hours (mt (checksumRight_iff f).1 hintact)) s)
  case notKnown =>
    exact answers_of_exec_eq (exec_recv_of_readFrame_error
      (readFrame_of_not_known hours ((checksumRight_iff f).2 hintact) (mt (recognised_iff _).1 hknown)) s)
  case unknown => exact answers_of_exec_eq (exec_recv_of_find_eq_none (hread hours hintact hknown) hnone)
  case stale =>
    exact answers_of_exec_eq (exec_recv_of_stale (hread hours hintact hknown) hfind ((stale_iff _ _).2 hdist))
  case fresh =>
    rw [← packetResponse_framePacket]
    exact lastWritten_of_exec_eq
      (exec_recv_of_fresh (hread hours hintact hknown) hfind ((stale_eq_false_iff _ _).2 hdist))

/-! ### DECODE, then SEQ_CHECK -/

/-- The acceptance test does not read the result it completes with: it raises one status for every result, or completes
over one table with each. -/
theorem acceptThen_cases (serial : Serial) (q : Byte) (s : State) :
    (∃ st, st ≠ .ok ∧ ∀ result, acceptThen serial q result s = raise st s) ∨
    (∃ k, ∀ result, acceptThen serial q result s = finish result (s.writeLast k q)) := by
  rcases s.accept_cases serial q with ⟨_, ha⟩ | ⟨_, _, _, ha⟩ | ⟨k, _, _, ha⟩
  · exact .inl ⟨_, by decide, fun result => acceptThen_of_accept_error result ha⟩
  · exact .inl ⟨_, by decide, fun result => acceptThen_of_accept_error result ha⟩
  · exact .inr ⟨k, fun result => acceptThen_of_accept_ok result ha⟩

/-- Two acceptances of one number from one state answer one status and leave one table; `OK` comes with the result of
each. -/
theorem acceptThen_two_results (serial : Serial) (q : Byte) (result result' : ByteString) (s : State) :
    ∃ (u w : State) (rsp rsp' : ByteString), acceptThen serial q (zeroFill resultLen result) s = .next u ∧
      acceptThen serial q (zeroFill resultLen result') s = .next w ∧ s.Answers u rsp ∧ s.Answers w rsp' ∧
      byteAt rsp' 0 = byteAt rsp 0 ∧ w.nTrack = u.nTrack ∧ w.tt = u.tt ∧
      rsp' = (if byteAt rsp 0 = 0x00 then okBytes result' else rsp) := by
  rcases acceptThen_cases serial q s with ⟨st, hst, ha⟩ | ⟨k, ha⟩
  · exact ⟨_, _, _, _, ha _, ha _, ⟨rfl, rfl⟩, ⟨rfl, rfl⟩, rfl, rfl, rfl, (if_neg (status_code_ne_zero hst)).symm⟩
  · exact ⟨_, _, _, _, ha _, ha _, ⟨rfl, rfl⟩, ⟨rfl, rfl⟩, rfl, rfl, rfl, rfl⟩

/-- Settles O51: by the receive checks, which both operations run; a frame that passes is left to the acceptance test,
with SEQ_CHECK's result or the packet. -/
theorem recvIsDecodeThenSeqCheck : Obligations.RecvIsDecodeThenSeqCheck := by
  intro s t raw ht
  cases (exec_decode_eq raw s).symm.trans ht
  cases hread : readFrame (realign raw) with
  | error st =>
    rw [decodeResponse_of_readFrame_error hread]
    refine ⟨fun _ _ _ => ⟨exec_recv_of_readFrame_error hread s, s.tableKept_answer _⟩, fun serial q cmd opt hok => ?_⟩
    have hrsp : errorBytes st.code = okBytes (serialBytes serial ++ [q, cmd, opt]) := by simpa using hok
    exact absurd hrsp.symm (okBytes_ne_errorBytes (status_code_ne_zero (readFrame_error_ne_ok hread)) _)
  | ok p =>
    rw [decodeResponse_of_readFrame_ok hread]
    refine ⟨fun code hcode herr => ?refused, fun serial q cmd opt hok => ?packet⟩
    case refused =>
      have hrsp : packetResponse p = errorBytes code := by simpa using herr
      exact absurd hrsp (okBytes_ne_errorBytes hcode _)
    case packet =>
      have hrsp : packetResponse p = packetResponse ⟨serial, q, cmd, opt⟩ := by simpa using hok
      cases packetResponse_injective hrsp
      rw [exec_seqCheck_eq, exec_recv_of_readFrame_ok hread]
      exact acceptThen_two_results serial q _ _ s

/-! ### From SEND over the wire to RECV -/

/-- A built frame comes back from the wire as it was built. -/
theorem realign_oversample_buildFrame (serial : Serial) (seq cmd opt : Byte) (pad : BitVec 13) :
    realign (oversample (buildFrame serial seq cmd opt) pad) = buildFrame serial seq cmd opt :=
  realign_oversample_eq pad (buildFrame_length serial seq cmd opt)
    (fun _ hj => streamBit_buildFrame_of_lt_five serial seq cmd opt hj) (fun _ _ _ => rfl)

/-- What SEND answers `OK` with is a built frame of its operands. -/
theorem send_of_answered_ok {s t : State} {serial : Serial} {cmd opt : Byte} {frame : ByteString}
    (hcmd : recognised cmd = true) (h : exec (.send serial cmd opt) s = .next t)
    (hok : t.responses = s.responses ++ [0x00 :: frame]) : ∃ q, frame = buildFrame serial q cmd opt := by
  cases hfind : s.find .outgoing serial with
  | none =>
    cases (exec_send_of_find_eq_none hcmd opt hfind).symm.trans h
    have hrsp : errorBytes 0x04 = 0x00 :: frame := by simpa using hok
    cases hrsp
  | some k =>
    rw [exec_send_of_find_eq_some hcmd opt hfind, okBytes_of_length (buildFrame_length serial _ cmd opt)] at h
    cases h
    exact ⟨(s.entry k).last + 1, by simpa using hok.symm⟩

/-- Settles O54: the frame sent is a built one, the wire gives it back, and the receive checks read its packet. -/
theorem sentFrameIsReceived : Obligations.SentFrameIsReceived := by
  intro s t u serial cmd opt frame pad k hcmd hsend hrsp hfind hfresh
  have hrec : recognised cmd = true := (recognised_iff cmd).2 hcmd
  obtain ⟨q, rfl⟩ := send_of_answered_ok hrec hsend hrsp
  have hread : readFrame (realign (oversample (buildFrame serial q cmd opt) pad)) = .ok ⟨serial, q, cmd, opt⟩ := by
    rw [realign_oversample_buildFrame, readFrame_buildFrame serial q cmd opt hrec]
  exact lastWritten_of_exec_eq (exec_recv_of_fresh hread hfind hfresh)

end Machine

end Sys2Proof
end

section
/-! PROOFS of the family "host sequences": the expansions SET_BRIGHTNESS and SET_COLOR_TEMP (O56, O57). -/

namespace Sys2Proof.HostSide

open Sys2Proof.Machine

/-! ### A SEND and its burst -/

/-- The result of a SEND that answers `OK` is the whole frame, and the burst is 20 copies of it (R130). -/
theorem transmitted_send_of_ok (serial : Serial) (cmd opt : Byte) {frame : ByteString} (h : frame.length = 17) :
    transmitted (.send serial cmd opt) (0x00 :: frame) = List.replicate 20 frame := by
  have hresult : slice (0x00 :: frame) 1 frameLen = frame := List.take_of_length_le h.le
  rw [transmitted, hresult]
  rfl

/-- The step that takes a SEND for a registered device: the next number is stored and the frame answered (R120). -/
theorem step_of_encoded_send {s : State} {serial : Serial} {cmd : Byte} {k : Nat} (hcmd : recognised cmd = true)
    (opt : Byte) (hfind : s.find .outgoing serial = some k)
    (hhead : s.requests.head? = some (encode (.send serial cmd opt))) :
    ∃ t : State, step s = .next t ∧ s.LastWritten t k ((s.entry k).last + 1) ∧
      s.Answers t (0x00 :: buildFrame serial ((s.entry k).last + 1) cmd opt) := by
  rw [step_of_decode_ok hhead (decodeOfEncodeIsTheOperation (.send serial cmd opt) rfl),
    ← okBytes_of_length (buildFrame_length serial _ cmd opt)]
  exact lastWritten_of_exec_eq (exec_send_of_find_eq_some hcmd opt hfind)

/-! ### SET_BRIGHTNESS -/

/-- Settles O56: two steps, each a SEND for the device found; the second counts on from the number the first stored. -/
theorem setBrightnessSendsTwoFrames : Obligations.SetBrightnessSendsTwoFrames := by
  intro s serial v k hfind hreq
  refine ⟨?run, ?bursts⟩
  case run =>
    obtain ⟨t, hstep, hwritten, htreq, htrsp⟩ := step_of_encoded_send (cmd := Command.dimmer.code) rfl overflowOptions
      hfind (by rw [hreq]; rfl)
    rw [hreq] at htreq
    obtain ⟨u, hstep', hwritten', hureq, hursp⟩ := step_of_encoded_send (cmd := Command.brighter.code) rfl v
      ((State.find_of_lastWritten hwritten .outgoing serial).trans hfind) (by rw [htreq]; rfl)
    have hsecond : (s.entry k).last + 1 + 1 = (s.entry k).last + 2 := by rw [add_assoc]; rfl
    rw [hwritten.last_eq, hsecond] at hwritten' hursp
    refine ⟨u, (run_succ_of_next hstep 1).trans (run_succ_of_next hstep' 0), hwritten.trans hwritten', ?_, ?_⟩
    · rw [hureq, htreq]; rfl
    · rw [hursp, htrsp, List.append_assoc]; rfl
  case bursts =>
    exact congrArg₂ (fun b b' => [b, b']) (transmitted_send_of_ok serial _ _ (buildFrame_length _ _ _ _))
      (transmitted_send_of_ok serial _ _ (buildFrame_length _ _ _ _))

/-! ### SET_COLOR_TEMP -/

theorem colorTempAmount_of_lt {m : Nat} (h : m < 218) :
    colorTempAmount (153 + m) = some ((30 * (217 - m) + 217) / 434) := by
  rw [colorTempAmount, if_pos (by omega), ← mul_assoc, Nat.sub_add_eq]
  rfl

/-- Settles O57: the quotient is the nearest integer, and a tie is excluded because `30 * (217 - m)` is even and an odd
multiple of 217 is not; the steps of the table are evaluated. -/
theorem colorTempAmountFollowsTheTable : Obligations.ColorTempAmountFollowsTheTable := by
  refine ⟨fun m hm => ⟨_, colorTempAmount_of_lt hm, ?noTieAbove, ?below⟩, ?first, ?last, fun serial m a ha => ?sends⟩
  case noTieAbove => omega
  case below => omega
  case first => decide
  case last => decide
  case sends => rw [setColorTemp, ha]; rfl

end Sys2Proof.HostSide
end

section
/-! PROOFS of the family "host sequences": the driving loop. A turn that issues nothing, what the host settles of each
status, the poll (O58), and the burst as a countdown (O59). -/

namespace Sys2Proof.HostSide

open Sys2Proof.Machine

/-! ### What the host makes of a response -/

/-- The host logs the status of a response iff R144 says so. -/
theorem logged_response (st : Status) (result : ByteString) :
    logged (response st result) = if logs st = some true then some st else none := by
  cases st <;> rfl

/-- Of the statuses an operation can raise, `BadPreamble` alone is not logged. -/
theorem logged_response_of_raised {st : Status} (h : Raised st) (result : ByteString) :
    (logged (response st result)).toList = if st = .badPreamble then [] else [st] := by
  obtain ⟨hok, hbadOp⟩ := h
  rw [logged_response]
  cases st with
  | ok => exact absurd rfl hok
  | badOp => exact absurd rfl hbadOp
  | _ => rfl

theorem dispatched_recv_ok (raw result : ByteString) :
    dispatched (.recv raw) (response .ok result) =
      some (be24 (byteAt (response .ok result) 1) (byteAt (response .ok result) 2) (byteAt (response .ok result) 3),
        byteAt (response .ok result) 5, byteAt (response .ok result) 6) := by
  rw [dispatched]
  exact if_pos rfl

theorem dispatched_recv_of_ne_ok (raw result : ByteString) {st : Status} (h : st ≠ .ok) :
    dispatched (.recv raw) (response st result) = none :=
  if_neg (status_code_ne_zero h)

/-- An operation answers `OK` or a status it can raise. -/
theorem exec_answers_status (i : Instr) (s : State) :
    ∃ (t : State) (st : Status) (result : ByteString), exec i s = .next t ∧ s.Answers t (response st result) ∧
      (st = .ok ∨ Raised st) := by
  rcases exec_cases i s with ⟨st, hst, he⟩ | ⟨_, _, he⟩ | ⟨_, _, _, _, _, _, _, _, _, he⟩ | ⟨_, _, _, _, _, _, he⟩
  · exact ⟨_, st, _, he, ⟨rfl, rfl⟩, .inr hst⟩
  · exact ⟨_, .ok, _, he, ⟨rfl, rfl⟩, .inl rfl⟩
  · exact ⟨_, .ok, _, he, ⟨rfl, rfl⟩, .inl rfl⟩
  · exact ⟨_, .ok, _, he, ⟨rfl, rfl⟩, .inl rfl⟩

/-! ### The poll -/

theorem Loop.request_of_not_issued {h : Loop} {i : Instr} (hno : h.burstLeft ≠ [] ∨ i.wellFormed ≠ true) :
    h.request i = .next h :=
  if_neg fun ⟨hb, hw⟩ => hno.elim (· hb) (· hw)

theorem wellFormed_recv_iff (raw : ByteString) : (Instr.recv raw).wellFormed = true ↔ raw.length = 18 :=
  beq_iff_eq

/-- Settles O58: the request is issued iff the radio is idle and the buffer has 18 bytes; then RECV answers `OK` or a
status it raises, and the host settles the one or the other. -/
theorem pollIssuesOneRecv : Obligations.PollIssuesOneRecv := by
  refine fun h => ⟨rfl, fun raw hno => ?notIssued, fun raw hidle hlen => ?issued⟩
  case notIssued => exact Loop.request_of_not_issued (hno.imp_right (mt (wellFormed_recv_iff raw).1))
  case issued =>
    have hwf : (Instr.recv raw).wellFormed = true := (wellFormed_recv_iff raw).2 hlen
    obtain ⟨t, st, result, he, ⟨hreq, hrsp⟩, hst⟩ :=
      exec_answers_status (.recv raw) (h.block.issueFirst (encode (.recv raw)))
    have hturn : h.turn (.poll (some raw)) = .next (h.settle (.recv raw) (response st result) t) :=
      Loop.request_of_exec hidle hwf (decodeOfEncodeIsTheOperation _ hwf) he hrsp
    refine ⟨_, response st result, st, hturn, he, hreq, hrsp, rfl, rfl, rfl, fun hok => ?ok, fun hne => ?raised⟩
    case ok =>
      subst hok
      rw [Loop.settle_dispatches, Loop.settle_log, dispatched_recv_ok, logged_response]
      exact ⟨rfl, List.append_nil _⟩
    case raised =>
      rw [Loop.settle_dispatches, Loop.settle_log, dispatched_recv_of_ne_ok raw result hne,
        logged_response_of_raised (hst.resolve_left hne)]
      exact ⟨List.append_nil _, rfl⟩

/-! ### The burst -/

/-- The host with `left` copies of a frame still to be transmitted, `sent` more of them on the air than in `h`. -/
def Loop.inBurst (h : Loop) (frame : ByteString) (left sent : Nat) : Loop :=
  { h with burstLeft := List.replicate left frame, onAir := h.onAir ++ List.replicate sent frame }

/-- A host whose burst is still whole. -/
theorem Loop.inBurst_zero_of_burstLeft_eq {h : Loop} {frame : ByteString} {left : Nat}
    (hb : h.burstLeft = List.replicate left frame) : h.inBurst frame left 0 = h := by
  rw [Loop.inBurst, ← hb, List.replicate_zero, List.append_nil]

/-- A turn in a burst transmits one copy or does nothing. -/
theorem Loop.turn_inBurst (h : Loop) (frame : ByteString) (left sent : Nat) (u : Turn) :
    (h.inBurst frame (left + 1) sent).turn u =
      .next (if u.isTransmit then h.inBurst frame left (sent + 1) else h.inBurst frame (left + 1) sent) := by
  have hair : (h.inBurst frame (left + 1) sent).onAir ++ [frame] = (h.inBurst frame left (sent + 1)).onAir := by
    rw [Loop.inBurst, Loop.inBurst, List.append_assoc, ← List.replicate_succ']
  rw [Loop.turn_of_burst (List.replicate_succ : _ = frame :: List.replicate left frame), hair]
  rfl

/-- Only the transmissions count, whatever turns stand between them; by induction on the turns before the last. -/
theorem Loop.turns_inBurst (h : Loop) (frame : ByteString) (us : List Turn) :
    ∀ left sent : Nat, us.countP Turn.isTransmit ≤ left →
      (h.inBurst frame (left + 1) sent).turns (us ++ [.transmit]) =
        .next (h.inBurst frame (left - us.countP Turn.isTransmit) (sent + (us.countP Turn.isTransmit + 1))) := by
  induction us with
  | nil => intro left sent _; exact Loop.turns_cons_of_next (h.turn_inBurst frame left sent .transmit) []
  | cons u us ih =>
    intro left sent hle
    have hturn := h.turn_inBurst frame left sent u
    cases hu : u.isTransmit with
    | false =>
      rw [hu] at hturn
      rw [List.countP_cons_of_neg (by simp [hu])] at hle ⊢
      exact (Loop.turns_cons_of_next hturn _).trans (ih left sent hle)
    | true =>
      rw [hu] at hturn
      rw [List.countP_cons_of_pos hu] at hle ⊢
      obtain ⟨left, rfl⟩ : ∃ n, left = n + 1 := ⟨left - 1, by omega⟩
      refine (Loop.turns_cons_of_next hturn _).trans ((ih left (sent + 1) (by omega)).trans ?_)
      rw [Nat.add_sub_add_right, Nat.add_right_comm, Nat.add_assoc]

/-- Settles O59: the call leaves a burst of 20 copies, which the turns count down. -/
theorem burstRunsToCompletion : Obligations.BurstRunsToCompletion := by
  intro h serial cmd opt t frame hidle he hrsp
  have hframe : frame.length = 17 := by
    obtain ⟨t', rsp, he', hans, hlen, -⟩ :=
      everyOperationCompletesWithOneResponse (.send serial cmd opt) (h.block.issueFirst (encode (.send serial cmd opt)))
    cases he.symm.trans he'
    rw [hans.response_unique (rsp' := 0x00 :: frame) ⟨hans.1, hrsp⟩] at hlen
    exact Nat.succ.inj hlen
  have hcall : h.turn (.call (.send serial cmd opt)) = .next (h.settle (.send serial cmd opt) (0x00 :: frame) t) :=
    Loop.request_of_exec hidle rfl (decodeOfEncodeIsTheOperation _ rfl) he hrsp
  have hburst : (h.settle (.send serial cmd opt) (0x00 :: frame) t).burstLeft = List.replicate 20 frame :=
    transmitted_send_of_ok serial cmd opt hframe
  have hlog : logged (0x00 :: frame) = none := logged_response .ok frame
  refine ⟨_, hcall, rfl, rfl, List.append_nil _, ?log, fun us hus => ?burst⟩
  case log => rw [Loop.settle_log, hlog, Option.toList_none, List.append_nil]
  case burst =>
    have hturns := Loop.turns_inBurst (h.settle (.send serial cmd opt) (0x00 :: frame) t) frame us 19 0
      (Nat.le_of_lt_succ hus)
    rw [Loop.inBurst_zero_of_burstLeft_eq hburst, Nat.zero_add] at hturns
    exact hturns

end Sys2Proof.HostSide
end

section
/-! PROOFS of the family "exceptions": a step that raises a status is a step that only answers it (O9). -/

namespace Sys2Proof.Machine

/-- An operation ends by raising a status over the state it began in, or by `OK`, with the responses given before it
still as they were. -/
theorem exec_raises_or_finishes (i : Instr) (s : State) :
    (∃ st, exec i s = raise st s) ∨
    (∃ (s' : State) (result : ByteString), exec i s = finish result s' ∧ s'.responses = s.responses) := by
  rcases exec_cases i s with ⟨st, _, he⟩ | ⟨_, _, he⟩ | ⟨_, _, _, _, _, _, _, _, _, he⟩ | ⟨_, _, _, _, _, _, he⟩
  · exact .inl ⟨st, he⟩
  · exact .inr ⟨_, _, he, rfl⟩
  · exact .inr ⟨_, _, he, rfl⟩
  · exact .inr ⟨_, _, he, rfl⟩

/-- A completed step did nothing, raised a status over the state it began in, or gave a response with status `OK`. -/
theorem step_next_cases {s t : State} (h : step s = .next t) :
    t = s ∨ (∃ st, t = s.answer (errorResponse st)) ∨
      (∃ result, t.responses = s.responses ++ [response .ok result]) := by
  rcases step_cases s with ⟨_, hidle⟩ | ⟨_, _, i, _, _, hexec⟩ | ⟨_, _, _, _, hbad⟩ | ⟨_, _, _, _, hrefused⟩
  · cases hidle.symm.trans h
    exact .inl rfl
  · rcases exec_raises_or_finishes i s with ⟨st, he⟩ | ⟨s', result, he, hresponses⟩ <;>
      cases (hexec.trans he).symm.trans h
    · exact .inr (.inl ⟨st, rfl⟩)
    · exact .inr (.inr ⟨result, by rw [State.answer_responses, hresponses]⟩)
  · cases hbad.symm.trans h
    exact .inr (.inl ⟨.badOp, rfl⟩)
  · cases hrefused.symm.trans h

/-- Settles O9: an idle step gives no response and a completed operation answers `OK`, so the step raised a status; and
what raises a status only answers. -/
theorem errorWritesNothing : Obligations.ErrorWritesNothing := by
  intro s t rsp hst hrsp hne
  rcases step_next_cases hst with rfl | ⟨st, rfl⟩ | ⟨result, hok⟩
  · exact absurd (List.self_eq_append_right.1 hrsp) (List.cons_ne_nil _ _)
  · cases List.append_cancel_left hrsp
    exact ⟨s.tableKept_answer _, rfl, rfl, status_code_toNat_le st⟩
  · cases List.append_cancel_left (hok.symm.trans hrsp)
    exact absurd rfl hne

end Sys2Proof.Machine
end

section
/-! PROOFS of the family "reset and hazards": a run over any list of requests (O10), nothing known after reset (O47), a
frame realigned twice (O37), and a SEQ_CHECK straight after a registration (O46) or an accepted RECV (O53). -/

namespace Sys2Proof

/-! ### The first byte of a frame that passes -/

/-- A frame whose first byte is not that of the preamble fails the first check (R86). -/
theorem readFrame_of_byteAt_zero_ne {f : ByteString} (h : byteAt f 0 ≠ 0x53) : readFrame f = .error .badPreamble := by
  refine readFrame_of_not_ours fun hours => h ?_
  rw [← byteAt_slice f 0 (show 0 < 8 by decide), hours]
  rfl

/-- Realigned once more, the first byte of an aligned frame is `0x52`: its own top bits `010` after the fixed five. -/
theorem byteAt_realign_buildFrame_append_zero (serial : Serial) (seq cmd opt : Byte) (b : ByteString) :
    byteAt (realign (buildFrame serial seq cmd opt ++ b)) 0 = 0x52 := by
  have hfirst : byteAt (buildFrame serial seq cmd opt ++ b) 0 = 0x53 := rfl
  rw [byteAt_realign_zero, hfirst]
  rfl

/-- The receive checks raise the statuses with the codes 1 to 3 (R86, R140). -/
theorem readFrame_error_code {f : ByteString} {st : Status} (h : readFrame f = .error st) :
    1 ≤ st.code.toNat ∧ st.code.toNat ≤ 3 := by
  rcases readFrame_cases f with ⟨_, hf⟩ | ⟨_, _, hf⟩ | ⟨_, _, _, hf⟩ | ⟨_, _, _, hf⟩ <;>
    cases hf.symm.trans h <;> decide

namespace Machine

/-! ### A run over pending requests -/

/-- A step that finds a request answers it, as an operation or with `BadOp` (R60, R185). -/
theorem step_answers_request {s : State} {r : ByteString} {rest : List ByteString} (hreq : s.requests = r :: rest)
    (hlen : r.length = 19) :
    ∃ (t : State) (rsp : ByteString), step s = .next t ∧ s.Answers t rsp ∧ rsp.length = 18 := by
  have hhead : s.requests.head? = some r := by rw [hreq, List.head?_cons]
  cases hd : decode r with
  | ok i =>
    obtain ⟨t, rsp, he, hans, hrsp, _⟩ := everyOperationCompletesWithOneResponse i s
    exact ⟨t, rsp, (step_of_decode_ok hhead hd).trans he, hans, hrsp⟩
  | error e =>
    cases e with
    | badOp =>
      exact ⟨_, _, (step_of_decode_error hhead hd).trans (raise_eq .badOp s), s.answers_answer _, errorBytes_length _⟩
    | notARequest => exact absurd hlen ((decode_eq_notARequest_iff r).1 hd)

/-- Settles O10, by induction on the pending requests: the first step answers the oldest and leaves the others. -/
theorem runAnswersEveryRequest : Obligations.RunAnswersEveryRequest := by
  intro s hsafe
  unfold State.Safe at hsafe
  induction hreq : s.requests generalizing s with
  | nil => exact ⟨s, [], rfl, hreq, (List.append_nil _).symm, rfl, fun _ h => absurd h List.not_mem_nil⟩
  | cons r rest ih =>
    rw [hreq, List.forall_mem_cons] at hsafe
    obtain ⟨hr, hrest⟩ := hsafe
    obtain ⟨t, rsp, hstep, ⟨htreq, htrsp⟩, hlen⟩ := step_answers_request hreq hr
    rw [hreq, List.tail_cons] at htreq
    obtain ⟨u, rsps, hrun, hdone, hursp, hcount, hall⟩ := ih t (htreq ▸ hrest) htreq
    refine ⟨u, rsp :: rsps, (run_succ_of_next hstep _).trans hrun, hdone, ?_, congrArg (· + 1) hcount,
      List.forall_mem_cons.2 ⟨hlen, hall⟩⟩
    rw [hursp, htrsp, List.append_assoc, List.singleton_append]

/-! ### After reset -/

theorem State.find_reset (dir : Dir) (serial : Serial) : State.reset.find dir serial = none := rfl

/-- RECV of a frame that passes finds no device; of any other it raises the check that failed. -/
theorem exec_recv_reset (raw : ByteString) :
    ∃ code : Byte, 1 ≤ code.toNat ∧ code.toNat ≤ 4 ∧
      exec (.recv raw) .reset = .next (State.reset.answer (errorBytes code)) := by
  cases hread : readFrame (realign raw) with
  | error st =>
    obtain ⟨hlow, hhigh⟩ := readFrame_error_code hread
    exact ⟨st.code, hlow, Nat.le_succ_of_le hhigh, exec_recv_of_readFrame_error hread _⟩
  | ok p => exact ⟨0x04, by decide, by decide, exec_recv_of_find_eq_none hread (State.find_reset _ _)⟩

/-- Settles O47: every look-up fails. -/
theorem nothingIsKnownAfterReset : Obligations.NothingIsKnownAfterReset := by
  refine fun serial q cmd opt raw => ⟨?seqNext, ?seqCheck, fun hcmd => ?send, ?recv⟩
  case seqNext => exact ⟨_, exec_seqNext_of_find_eq_none (State.find_reset _ _), State.answers_answer _ _⟩
  case seqCheck => exact ⟨_, exec_seqCheck_of_find_eq_none q (State.find_reset _ _), State.answers_answer _ _⟩
  case send =>
    exact ⟨_, exec_send_of_find_eq_none ((recognised_iff cmd).2 hcmd) opt (State.find_reset _ _),
      State.answers_answer _ _⟩
  case recv =>
    obtain ⟨code, hlow, hhigh, he⟩ := exec_recv_reset raw
    exact ⟨_, code, he, hlow, hhigh, State.answers_answer _ _⟩

/-! ### A frame shifted twice -/

theorem exec_decode_of_readFrame_error {raw : ByteString} {st : Status} (h : readFrame (realign raw) = .error st)
    (s : State) : exec (.decode raw) s = .next (s.answer (errorBytes st.code)) := by
  rw [exec_decode_eq, decodeResponse_of_readFrame_error h]

/-- Settles O37: the first byte is `0x52`, so the first check of both operations fails. -/
theorem alignedFrameIsBadPreamble : Obligations.AlignedFrameIsBadPreamble := by
  intro serial seq cmd opt last s
  have hread : readFrame (realign (buildFrame serial seq cmd opt ++ [last])) = .error .badPreamble := by
    apply readFrame_of_byteAt_zero_ne
    rw [byteAt_realign_buildFrame_append_zero]
    decide
  exact ⟨answers_of_exec_eq (exec_decode_of_readFrame_error hread s),
    answers_of_exec_eq (exec_recv_of_readFrame_error hread s)⟩

/-! ### SEQ_CHECK by the number recorded -/

/-- SEQ_CHECK of a registered device tests the number against the `last` recorded (R104, R105). -/
theorem exec_seqCheck_of_lastOf_eq_some {s : State} {serial : Serial} {l : Byte} (q : Byte)
    (h : s.lastOf .incoming serial = some l) :
    ∃ t : State, exec (.seqCheck serial q) s = .next t ∧
      s.Answers t (if stale l q = false then okBytes (serialBytes serial ++ [q]) else errorBytes 0x05) := by
  obtain ⟨k, hfind, rfl⟩ := Option.map_eq_some_iff.1 h
  split
  next hfresh => exact ⟨_, exec_seqCheck_of_fresh hfind hfresh, rfl, rfl⟩
  next hstale => exact ⟨_, exec_seqCheck_of_stale hfind (Bool.not_eq_false _ ▸ hstale), rfl, rfl⟩

/-- The number recorded last is answered `StaleSequence` (R105). -/
theorem exec_seqCheck_of_lastOf_self {s : State} {serial : Serial} {q : Byte} (h : s.lastOf .incoming serial = some q) :
    exec (.seqCheck serial q) s = .next (s.answer (errorBytes 0x05)) :=
  acceptThen_of_accept_error _ (State.accept_of_lastOf_self h)

/-- What raises a status other than `OK` is not answered `OK`. -/
theorem eq_ok_of_raise {s t : State} {st : Status} {result : ByteString} (h : raise st s = .next t)
    (hok : t.responses = s.responses ++ [okBytes result]) : st = .ok := by
  by_contra hst
  cases h
  have hrsp : errorBytes st.code = okBytes result := by simpa [errorResponse_eq] using hok
  exact okBytes_ne_errorBytes (status_code_ne_zero hst) result hrsp.symm

/-! ### Straight after a registration -/

/-- A TRACK answered `OK` for an absent device has registered it with `last` 0 (R100). -/
theorem lastOf_of_track_ok {s t : State} {dir : Dir} {serial : Serial} (habsent : ∀ k, ¬ s.Holds k dir serial)
    (h : exec (.track dir serial) s = .next t) (hok : t.responses = s.responses ++ [okBytes []]) :
    t.lastOf dir serial = some seqInit := by
  have hnone := (s.find_eq_none_iff dir serial).2 habsent
  cases hfree : s.freeIndex with
  | none => cases eq_ok_of_raise (st := .registryFull) ((exec_track_of_full hnone hfree).symm.trans h) hok
  | some k =>
    cases (exec_track_of_free hnone hfree).symm.trans h
    exact (State.lastOf_writeNew hnone (State.freeIndex_eq_some hfree).1 dir serial).trans (if_pos ⟨rfl, rfl⟩)

theorem stale_seqInit_eq_false_iff (q : Byte) : stale seqInit q = false ↔ 1 ≤ q.toNat ∧ q.toNat ≤ 192 := by
  rw [stale_eq_false_iff_ahead, show seqInit = 0#8 from rfl, BitVec.sub_zero]

/-- Settles O46: the window of a `last` that is 0. -/
theorem firstFramesAfterRegistration : Obligations.FirstFramesAfterRegistration := by
  intro s t serial q habsent h hok
  simp only [← stale_seqInit_eq_false_iff]
  exact exec_seqCheck_of_lastOf_eq_some q (lastOf_of_track_ok habsent h hok)

/-! ### Straight after an accepted RECV -/

/-- A RECV answered with a packet has recorded the number of that packet (R122). -/
theorem lastOf_of_recv_ok {s t : State} {raw : ByteString} {p : Packet} (h : exec (.recv raw) s = .next t)
    (hok : t.responses = s.responses ++ [packetResponse p]) : t.lastOf .incoming p.serial = some p.sequence := by
  cases hread : readFrame (realign raw) with
  | error st =>
    exact absurd (eq_ok_of_raise ((exec_recv_of_readFrame_error hread s).symm.trans h) hok)
      (readFrame_error_ne_ok hread)
  | ok p' =>
    rcases s.accept_cases p'.serial p'.sequence with ⟨hnone, _⟩ | ⟨k, hfind, hstale, _⟩ | ⟨k, hfind, hfresh, _⟩
    · cases eq_ok_of_raise (st := .unknownSerial) ((exec_recv_of_find_eq_none hread hnone).symm.trans h) hok
    · cases eq_ok_of_raise (st := .staleSequence) ((exec_recv_of_stale hread hfind hstale).symm.trans h) hok
    · cases (exec_recv_of_fresh hread hfind hfresh).symm.trans h
      have hrsp : packetResponse p' = packetResponse p := by simpa using hok
      cases packetResponse_injective hrsp
      exact (State.lastOf_writeLast hfind _ _ _).trans (if_pos ⟨rfl, rfl⟩)

/-- Settles O53: the number checked is the one RECV recorded. -/
theorem seqCheckAfterRecvIsStale : Obligations.SeqCheckAfterRecvIsStale := by
  intro s t raw serial q cmd opt h hok
  exact answers_of_exec_eq (exec_seqCheck_of_lastOf_self (lastOf_of_recv_ok (p := ⟨serial, q, cmd, opt⟩) h hok))

end Machine

end Sys2Proof
end

section
/-! PROOFS of the family "other": the step with no request pending (O3). -/

namespace Sys2Proof.Machine

/-- Settles O3: the step's equation for an empty queue. -/
theorem idleStepChangesNothing : Obligations.IdleStepChangesNothing :=
  fun _ hidle => step_of_no_request hidle

end Sys2Proof.Machine
end
